-- ==== Sys2Proof/Word.lean ====
section
/-! DEFINITION. The byte and word types of the register window, and the byte-array registers' types
(spec/00_scope.md R7, R16, R17; spec/10_state.md R41). -/

namespace Sys2Proof

/-- One byte of a byte string (R17). -/
abbrev Byte := BitVec 8

/-- One 32-bit word of the register window (R104). -/
abbrev Word := BitVec 32

/-- A register of `MAXBL = 16` bytes: IV, XIV, LAST_IV, SK1, SK2 (R7, R41). -/
abbrev BlockReg := Vector Byte 16

/-- A register of `MAXKL = 24` bytes: KEY, SKENC, SKMAC (R7, R41). -/
abbrev KeyBytes := Vector Byte 24

end Sys2Proof
end

