-- ==== Sys2Proof/Syntax.lean ====
section
/-! DEFINITION. The commands, one constructor for each row of spec/opcode_table.json, with their fields
decoded to names (spec/30_encoding.md R140 to R148). -/

namespace Sys2Proof

/-- The KSEL field (spec/30_encoding.md R142; spec/10_state.md R60). `reserved` is KSEL = 3
(log entry 11). -/
inductive KeySel where
  | static
  | senc
  | smac
  | reserved
  deriving DecidableEq, Repr

/-- The DIR field of CHAINX (R143). -/
inductive Dir where
  | receive
  | send
  deriving DecidableEq, Repr

/-- The MODE field of CHAINX (R144): which primitive is applied. -/
inductive Mode where
  | decode
  | encode
  deriving DecidableEq, Repr

/-- The X field of CHAINX (R145): the persistent IV of the context, or the external one (XIV). -/
inductive IvSource where
  | context
  | external
  deriving DecidableEq, Repr

/-- The fourteen commands (R148). -/
inductive Instr where
  | nop
  | chainx (k : KeySel) (d : Dir) (m : Mode) (x : IvSource)
  | chain (k : KeySel) (enc : Bool)
  | cmacsk (k : KeySel)
  | cmac (k : KeySel)
  | crc32
  | crc32a
  | crc32v
  | crc16
  | crc16a
  | crc16v
  | clriv
  | clrsess
  | clrctx
  deriving DecidableEq, Repr

end Sys2Proof
end

