-- ==== Sys2Proof/WellFormed.lean ====
section
/-! DEFINITION. Which commands are well formed: those whose KSEL is not the reserved value
(spec/30_encoding.md R147: "not (w[3:0] in {1,2,3,4} and w[5:4] == 3)"). -/

namespace Sys2Proof

/-- KSEL = 3 is reserved (spec/10_state.md R60). -/
def KeySel.wf : KeySel → Bool
  | .static => true
  | .senc => true
  | .smac => true
  | .reserved => false

/-- A command with a key select is well formed if that select names a key; the others always are. -/
def Instr.wf : Instr → Bool
  | .nop => true
  | .chainx k _ _ _ => k.wf
  | .chain k _ => k.wf
  | .cmacsk k => k.wf
  | .cmac k => k.wf
  | .crc32 => true
  | .crc32a => true
  | .crc32v => true
  | .crc16 => true
  | .crc16a => true
  | .crc16v => true
  | .clriv => true
  | .clrsess => true
  | .clrctx => true

end Sys2Proof
end

