-- ==== Sys2Proof/Decode.lean ====
section
/-! DEFINITION. The decoder of a command word and the encoder, both written from the opcode map of
spec/30_encoding.md R140 to R150. Decoding is total: a word is a command, or is rejected by name. -/

namespace Sys2Proof

/-- Why a word is no command (R149). The engine answers each of them with ILLEGAL_CMD. -/
inductive DecodeError where
  /-- OP is 14 or 15. -/
  | reservedOp
  /-- A bit that must be 0 is 1. -/
  | reservedBits
  /-- KSEL is 3 in CHAINX, CHAIN, CMACSK or CMAC. -/
  | reservedKeySel
  deriving DecidableEq, Repr

/-- `OP = w[3:0]` (R141). -/
def opField (w : Word) : BitVec 4 := w.extractLsb' 0 4

/-- `KSEL = w[5:4]` (R142). -/
def kselField (w : Word) : BitVec 2 := w.extractLsb' 4 2

/-- `KeyReg`'s selector values (spec/10_state.md R60). -/
def KeySel.ofBits (b : BitVec 2) : KeySel :=
  match b.toNat with
  | 0 => .static
  | 1 => .senc
  | 2 => .smac
  | _ => .reserved

/-- DIR: 1 Send, 0 Receive (R143). -/
def Dir.ofBit (b : Bool) : Dir := if b then .send else .receive

/-- MODE: 1 Encode, 0 Decode (R144). -/
def Mode.ofBit (b : Bool) : Mode := if b then .encode else .decode

/-- X: 1 external, 0 persistent (R145). -/
def IvSource.ofBit (b : Bool) : IvSource := if b then .external else .context

/-- One row of the opcode map: the word is the row's command `i` if it agrees with the row under the
row's mask and its key select is not reserved (R148: "checks `(w AND mask) == match`, and checks
KSEL != 3 for OP 1..4"). -/
def decodeRow (w mask pattern : Word) (i : Instr) : Except DecodeError Instr :=
  if w &&& mask = pattern then
    if i.wf then .ok i else .error .reservedKeySel
  else .error .reservedBits

/-- The decoder (R148, R150): one line for each row of the opcode map. -/
def decode (w : Word) : Except DecodeError Instr :=
  let k := KeySel.ofBits (kselField w)
  let d := w.getLsbD 6
  let m := w.getLsbD 7
  let x := w.getLsbD 8
  match (opField w).toNat with
  | 0 => decodeRow w 0xFFFFFFFF 0x00000000 .nop
  | 1 => decodeRow w 0xFFFFFE0F 0x00000001 (.chainx k (Dir.ofBit d) (Mode.ofBit m) (IvSource.ofBit x))
  | 2 => decodeRow w 0xFFFFFF8F 0x00000002 (.chain k d)
  | 3 => decodeRow w 0xFFFFFFCF 0x00000003 (.cmacsk k)
  | 4 => decodeRow w 0xFFFFFFCF 0x00000004 (.cmac k)
  | 5 => decodeRow w 0xFFFFFFFF 0x00000005 .crc32
  | 6 => decodeRow w 0xFFFFFFFF 0x00000006 .crc32a
  | 7 => decodeRow w 0xFFFFFFFF 0x00000007 .crc32v
  | 8 => decodeRow w 0xFFFFFFFF 0x00000008 .crc16
  | 9 => decodeRow w 0xFFFFFFFF 0x00000009 .crc16a
  | 10 => decodeRow w 0xFFFFFFFF 0x0000000A .crc16v
  | 11 => decodeRow w 0xFFFFFFFF 0x0000000B .clriv
  | 12 => decodeRow w 0xFFFFFFFF 0x0000000C .clrsess
  | 13 => decodeRow w 0xFFFFFFFF 0x0000000D .clrctx
  | _ => .error .reservedOp

/-- The decoder on an instruction given as the table numbers its bits: a command is one 32-bit word
(R140, R150), so a longer instruction is none. -/
def decodeTableWord (nbits w : Nat) : Option Instr :=
  if w % 2 ^ nbits < 2 ^ 32 then
    match decode (BitVec.ofNat 32 (w % 2 ^ nbits)) with
    | .ok i => some i
    | .error _ => none
  else none

/-- `FREE(OP)`: the bits of w[31:4] that may be 1 (R147). -/
def freeMask (op : BitVec 4) : Word :=
  match op.toNat with
  | 1 => 0x1F0
  | 2 => 0x070
  | 3 => 0x030
  | 4 => 0x030
  | _ => 0x000

/-- `Legal(w)`, transcribed from R147. The decoder does not use it: it is what the decoder is held
against. -/
def legal (w : Word) : Bool :=
  (opField w).toNat ≤ 13 &&
  w &&& ~~~(0xF ||| freeMask (opField w)) == 0 &&
  !(1 ≤ (opField w).toNat && (opField w).toNat ≤ 4 && kselField w == 3)

/-- KSEL as the encoder writes it (R142). -/
def KeySel.toBits : KeySel → BitVec 2
  | .static => 0
  | .senc => 1
  | .smac => 2
  | .reserved => 3

/-- DIR as the encoder writes it (R143). -/
def Dir.toBit : Dir → Bool
  | .receive => false
  | .send => true

/-- MODE as the encoder writes it (R144). -/
def Mode.toBit : Mode → Bool
  | .decode => false
  | .encode => true

/-- X as the encoder writes it (R145). -/
def IvSource.toBit : IvSource → Bool
  | .context => false
  | .external => true

/-- The command word with the given fields, the reserved bits [31:9] zero (R140). -/
def commandWord (op : BitVec 4) (k : BitVec 2) (d m x : Bool) : Word :=
  0#23 ++ BitVec.ofBool x ++ BitVec.ofBool m ++ BitVec.ofBool d ++ k ++ op

/-- The encoder (R148). A field that a command does not have is 0 (R151). -/
def encode : Instr → Word
  | .nop => commandWord 0 0 false false false
  | .chainx k d m x => commandWord 1 k.toBits d.toBit m.toBit x.toBit
  | .chain k e => commandWord 2 k.toBits e false false
  | .cmacsk k => commandWord 3 k.toBits false false false
  | .cmac k => commandWord 4 k.toBits false false false
  | .crc32 => commandWord 5 0 false false false
  | .crc32a => commandWord 6 0 false false false
  | .crc32v => commandWord 7 0 false false false
  | .crc16 => commandWord 8 0 false false false
  | .crc16a => commandWord 9 0 false false false
  | .crc16v => commandWord 10 0 false false false
  | .clriv => commandWord 11 0 false false false
  | .clrsess => commandWord 12 0 false false false
  | .clrctx => commandWord 13 0 false false false

end Sys2Proof
end

