-- ==== Sys2Proof/Machine/Bytes.lean ====
section
/-! DEFINITION. Byte strings (spec/00_scope.md R17, R18) and the two byte orders: little-endian in the window
and in a serialised CRC (spec/20_memory.md R103, spec/40_crc.md R180), big-endian in the CMAC doubling
(R18). -/

namespace Sys2Proof.Machine

/-- `a XOR b` on two byte strings of equal length (R17). -/
def xorBytes (a b : List Byte) : List Byte := List.zipWith (· ^^^ ·) a b

/-- `0^n` (R17). -/
def zeroBytes (n : Nat) : List Byte := List.replicate n 0

/-- The byte string as an integer, byte 0 the most significant (R18). -/
def beNat (a : List Byte) : Nat := a.foldl (fun acc b => acc * 256 + b.toNat) 0

/-- The `n` bytes of `v mod 256^n`, byte 0 the most significant (R18). -/
def beBytes (n v : Nat) : List Byte :=
  (List.range n).map fun i => BitVec.ofNat 8 (v / 256 ^ (n - 1 - i))

/-- `bytes32(c)`: the four bytes of a word, the least significant first (spec/40_crc.md R180). -/
def bytes32 (c : Word) : List Byte :=
  [c.extractLsb' 0 8, c.extractLsb' 8 8, c.extractLsb' 16 8, c.extractLsb' 24 8]

/-- `bytes16(c)`: the two bytes of a 16-bit value, the least significant first (R180). -/
def bytes16 (c : BitVec 16) : List Byte := [c.extractLsb' 0 8, c.extractLsb' 8 8]

/-- The word whose bytes are `b0` (bits [7:0]) to `b3` (spec/20_memory.md R103). -/
def wordOfBytes (b0 b1 b2 b3 : Byte) : Word := b3 ++ b2 ++ b1 ++ b0

/-- Byte `i` of a register; 0 past its end. -/
def byteAt {n : Nat} (a : Vector Byte n) (i : Nat) : Byte := a.toList.getD i 0

/-- The register `a` with bytes `[0..<|bs|]` replaced by `bs`, the others kept. -/
def setPrefix {n : Nat} (a : Vector Byte n) (bs : List Byte) : Vector Byte n :=
  Vector.ofFn fun i => bs.getD i a[i]

/-- The word at byte offset `o` of a register (spec/20_memory.md R103). -/
def arrayWord {n : Nat} (a : Vector Byte n) (o : Nat) : Word :=
  wordOfBytes (byteAt a o) (byteAt a (o + 1)) (byteAt a (o + 2)) (byteAt a (o + 3))

/-- The register `a` with the word at byte offset `o` replaced by `v` (R103, R107 (e)). -/
def setArrayWord {n : Nat} (a : Vector Byte n) (o : Nat) (v : Word) : Vector Byte n :=
  Vector.ofFn fun i => if o ≤ i then (bytes32 v).getD (i - o) a[i] else a[i]

end Sys2Proof.Machine
end

