-- ==== Sys2Proof/Config.lean ====
section
/-! DEFINITION. What an implementation fixes (spec/00_scope.md R2, R6 to R15) and the free values:
the algorithms and channel kinds, the buffer size, the window's base address, which instance of the
configuration functions is fitted, and the opaque constants that stand for what the spec leaves open. -/

namespace Sys2Proof

/-- The four block-cipher algorithms (R2 (a), R6). -/
inductive Alg where
  | des
  | tdes2
  | tdes3
  | aes
  deriving DecidableEq, Repr

/-- The four secure-channel kinds (R2 (b), spec/10_state.md R42). -/
inductive Chan where
  | none
  | d40
  | ev1
  | ev2
  deriving DecidableEq, Repr

/-- Which instance of the configuration functions Enc, Dec, Crc32 and Crc16a an engine is built with
(R12, R14, R15). PRESUMED: `intended` is the instance the spec names as intended, "from general
knowledge" (R13, R14, R15); safe for a statement about every instance (log entry 2). -/
inductive Fitted where
  /-- DES, TDEA and AES-128, CRC-32/JAMCRC and CRC_A (R13, R14, R15). -/
  | intended
  /-- Any other instance, the `n`-th: opaque total functions of the widths R12, R14 and R15 state. -/
  | other (n : Nat)
  deriving DecidableEq, Repr

namespace Config

/-- `BUF_BYTES` (R8): the capacity of DBUF and the largest accepted LEN (log entry 8). -/
def bufBytes : Nat := 1024

/-- The size of the register window in bytes (spec/20_memory.md R100). -/
def windowBytes : Nat := 0x800

/-- `REG_BASE` (R9): the host address of byte offset 0 of the window, "an open parameter of the
platform". No body: nothing depends on its value (log entry 7). -/
opaque regBase : Nat

/-- The unspecified value of byte `i` of DBUF in the `epoch`-th draw (spec/70_reset_and_hazards.md R380).
A free value: no body, so nothing constrains it (log entry 1). -/
opaque dbufUnspecified (epoch i : Nat) : Byte

/-- Byte `i` of `Enc(alg, key, blk)` in the `n`-th other instance (R12). A free function. -/
opaque otherEncByte (n : Nat) (alg : Alg) (key blk : List Byte) (i : Nat) : Byte

/-- Byte `i` of `Dec(alg, key, blk)` in the `n`-th other instance (R12). A free function. -/
opaque otherDecByte (n : Nat) (alg : Alg) (key blk : List Byte) (i : Nat) : Byte

/-- `Crc32(bytes)` in the `n`-th other instance (R14). A free function. -/
opaque otherCrc32 (n : Nat) (bytes : List Byte) : Word

/-- `Crc16a(bytes)` in the `n`-th other instance (R15). A free function. -/
opaque otherCrc16a (n : Nat) (bytes : List Byte) : BitVec 16

end Config

end Sys2Proof
end

