-- ==== Sys2Proof/Machine/State.lean ====
section
/-! DEFINITION. The state of the engine as plain data (spec/10_state.md R41), with the model's own fields
for the host port, the free DBUF contents and the fitted configuration functions; the reasons a step
can stop; the error codes; and the state right after reset (spec/70_reset_and_hazards.md R371). -/

namespace Sys2Proof.Machine

/-- One thing the outside does to the engine. Addresses are byte offsets from REG_BASE
(spec/20_memory.md R100; log entry 7). -/
inductive HostEvent where
  /-- A read of `width` bytes at offset `addr` (R104). -/
  | read (width addr : Nat)
  /-- A write of `width` bytes at offset `addr`; the low `8 * width` bits of `value` matter (R104). -/
  | write (width addr : Nat) (value : Word)
  /-- The reset event (spec/70_reset_and_hazards.md R370; log entry 10). -/
  | reset
  deriving DecidableEq, Repr

/-- The engine's state. The first thirteen fields are the registers of spec/10_state.md R41 (CMD stores
nothing, R45); the last four are the model's own (log entries 1, 2, 3 and 4). -/
structure State where
  /-- CTRL: ALG in bits [2:0], CHAN in bits [5:4] (R42). -/
  ctrl : Word
  /-- STATUS: ERR bit 0, VOK bit 1, ERRCODE bits [7:4] (R46). -/
  status : Word
  /-- LEN, the 16 stored bits (R50). -/
  len : BitVec 16
  /-- CRCR (R51). -/
  crcr : Word
  /-- IV, the persistent IV (R52). -/
  iv : BlockReg
  /-- XIV, the external IV buffer (R53). -/
  xiv : BlockReg
  /-- LAST_IV (R54). -/
  lastIv : BlockReg
  /-- SK1, the first CMAC subkey (R55). -/
  sk1 : BlockReg
  /-- SK2, the second CMAC subkey (R55). -/
  sk2 : BlockReg
  /-- KEY, the static key (R56). -/
  key : KeyBytes
  /-- SKENC, the encryption session key (R57). -/
  skenc : KeyBytes
  /-- SKMAC, the MAC session key (R58). -/
  skmac : KeyBytes
  /-- DBUF (R59): one cell (index, byte) for each byte written since reset, indices strictly rising.
  An unlisted byte is unspecified (spec/70_reset_and_hazards.md R380; log entries 1 and 9). -/
  dbuf : List Host.Cell
  /-- The model's own: which draw of the unspecified DBUF bytes is in force (log entry 1). -/
  epoch : Nat
  /-- The model's own: the instance of Enc, Dec, Crc32 and Crc16a this engine has (log entry 2). -/
  fitted : Fitted
  /-- The model's own: what the host does next, first one first (log entry 3). -/
  pending : List HostEvent
  /-- The model's own: what the last host read returned on the bus (log entry 4). -/
  rdata : Option Word
  deriving DecidableEq, Repr

/-- Why a step stops the machine. -/
inductive Fault where
  /-- `BusError(addr)`: a host access that is not an aligned 32-bit access at an offset 0x000 to 0x7FC
  (spec/20_memory.md R105; spec/60_exceptions.md R335; past 0x7FC, DEDUCED, log entry 6). Raised by
  `performEvent` alone, by no command. Safe: the spec refuses the access, and "a model treats this as a fault of the host program". -/
  | busError (addr : Nat)
  deriving DecidableEq, Repr

/-- Why an instruction has no meaning. -/
inductive Refusal where
  /-- Raised by an arm of `exec` whose instruction is not modelled yet; no arm raises it. Safe. -/
  | notModelled (mnemonic : String)
  deriving DecidableEq, Repr

/-- The engine errors of spec/60_exceptions.md R330. -/
inductive EngineError where
  | illegalCmd
  | badAlg
  | lenRange
  | lenAlign
  deriving DecidableEq, Repr

/-- The registers of the window (spec/10_state.md R41). -/
inductive RegName where
  | ctrl
  | cmd
  | status
  | len
  | crcr
  | iv
  | xiv
  | lastIv
  | sk1
  | sk2
  | key
  | skenc
  | skmac
  | dbuf
  deriving DecidableEq, Repr

/-- One row of the address map (spec/20_memory.md R101): `size` bytes from offset `base` are `reg`. -/
structure Region where
  base : Nat
  size : Nat
  reg : RegName
  deriving DecidableEq, Repr

/-- The machine right after reset (spec/70_reset_and_hazards.md R371): every register zero, DBUF with
nothing listed. DESIGN CHOICE, the model's own fields: the first draw, no host event pending, nothing
read yet (log entries 1, 3 and 4). PRESUMED: the intended configuration functions (log entry 2). -/
def State.reset : State where
  ctrl := 0
  status := 0
  len := 0
  crcr := 0
  iv := Vector.replicate 16 0
  xiv := Vector.replicate 16 0
  lastIv := Vector.replicate 16 0
  sk1 := Vector.replicate 16 0
  sk2 := Vector.replicate 16 0
  key := Vector.replicate 24 0
  skenc := Vector.replicate 24 0
  skmac := Vector.replicate 24 0
  dbuf := []
  epoch := 0
  fitted := .intended
  pending := []
  rdata := none

end Sys2Proof.Machine
end

