-- ==== Sys2Proof/Machine/Memory.lean ====
section
/-! DEFINITION. DBUF as a canonical list of cells (spec/10_state.md R59; spec/70_reset_and_hazards.md R380): one
cell for each byte that has a specified value, indices strictly rising and below BUF_BYTES. -/

namespace Sys2Proof.Machine

/-- The one canonical form of DBUF's cells: indices strictly rising, none beyond the buffer. An unlisted
byte has no specified value, so no listed value can equal it (log entry 9). -/
abbrev Memory.wf (m : List Host.Cell) : Prop :=
  m.Pairwise (fun a b => a.1 < b.1) ∧ ∀ c ∈ m, c.1 < Config.bufBytes

/-- The specified value of byte `i`, if it has one. -/
def memLookup : List Host.Cell → Nat → Option Byte
  | [], _ => none
  | c :: m, i => if c.1 = i then some c.2 else memLookup m i

/-- Put one cell in its place. -/
def memInsert : List Host.Cell → Nat → Byte → List Host.Cell
  | [], i, b => [(i, b)]
  | c :: m, i, b =>
    if i < c.1 then (i, b) :: c :: m
    else if i = c.1 then (i, b) :: m
    else c :: memInsert m i b

/-- Store one byte. Nothing exists at or beyond BUF_BYTES, so nothing is stored there (R114). -/
def memStore (m : List Host.Cell) (i : Nat) (b : Byte) : List Host.Cell :=
  if i < Config.bufBytes then memInsert m i b else m

/-- Store a byte string from byte `i` on, in increasing order. -/
def memStoreBytes : List Host.Cell → Nat → List Byte → List Host.Cell
  | m, _, [] => m
  | m, i, b :: bs => memStoreBytes (memStore m i b) (i + 1) bs

/-- `DBUF[i]`: the specified value, or else the free value of the epoch in force (spec/70_reset_and_hazards.md
R380: "treats the byte as a free draw"; log entries 1 and 14). -/
def dbufByte (s : State) (i : Nat) : Byte :=
  (memLookup s.dbuf i).getD (Config.dbufUnspecified s.epoch i)

/-- `DBUF[lo..<lo+n]` (spec/00_scope.md R17). -/
def dbufRead (s : State) (lo n : Nat) : List Byte :=
  (List.range n).map fun k => dbufByte s (lo + k)

end Sys2Proof.Machine
end

