-- ==== Sys2Proof/Machine/Crc.lean ====
section
/-! DEFINITION. CRC-32 and CRC-16, the intended instances of Crc32 and Crc16a (spec/00_scope.md R14, R15).
PRESUMED: the spec marks both "from general knowledge, not in source" (log entry 2). -/

namespace Sys2Proof.Machine

/-- `n` bit steps of a reflected CRC register: shift right, and add the polynomial if a 1 fell out. -/
def crcSteps {w : Nat} (poly : BitVec w) : Nat → BitVec w → BitVec w
  | 0, r => r
  | n + 1, r => crcSteps poly n (if r.getLsbD 0 then (r >>> 1) ^^^ poly else r >>> 1)

/-- One byte into a reflected CRC register, least significant bit first (R14). -/
def crcByte {w : Nat} (poly r : BitVec w) (b : Byte) : BitVec w :=
  crcSteps poly 8 (r ^^^ b.setWidth w)

/-- The bytes in order into a reflected CRC register. -/
def crcBytes {w : Nat} (poly : BitVec w) : BitVec w → List Byte → BitVec w
  | r, [] => r
  | r, b :: bs => crcBytes poly (crcByte poly r b) bs

/-- CRC-32/JAMCRC: polynomial 0xEDB88320 reflected, initial register 0xFFFFFFFF, no final XOR (R14). -/
def jamCrc32 (bytes : List Byte) : Word := crcBytes 0xEDB88320 0xFFFFFFFF bytes

/-- CRC_A of ISO/IEC 14443-3: polynomial 0x8408 reflected, initial register 0x6363, no final XOR (R15). -/
def crcA (bytes : List Byte) : BitVec 16 := crcBytes 0x8408 0x6363 bytes

end Sys2Proof.Machine
end

