-- ==== Sys2Proof/Machine/Des.lean ====
section
/-! DEFINITION. DES and TDEA, the intended instance of Enc and Dec for ALG 0, 1 and 2 (spec/00_scope.md R13).
PRESUMED: the spec marks this instance "from general knowledge, not in source" and gives no table; the
tables are those of FIPS 46-3 (log entry 2). Bits are
numbered as FIPS numbers them, from 1, the most significant first. -/

namespace Sys2Proof.Machine

/-- A byte string of 8 bytes as a 64-bit block (R13: "byte 0 of a block is the cipher's first (most
significant) input byte"). -/
def desWord (bs : List Byte) : BitVec 64 := BitVec.ofNat 64 (beNat bs)

/-- Select bits by a table of FIPS bit numbers; the table's first entry becomes the most significant
of the `n` result bits. -/
def permute {w : Nat} (n : Nat) (table : List Nat) (x : BitVec w) : BitVec n :=
  BitVec.ofNat n (table.foldl (fun acc p => 2 * acc + (x.getLsbD (w - p)).toNat) 0)

/-- The initial permutation. -/
def desIP : List Nat :=
    [58, 50, 42, 34, 26, 18, 10, 2, 60, 52, 44, 36, 28, 20, 12, 4] ++
    [62, 54, 46, 38, 30, 22, 14, 6, 64, 56, 48, 40, 32, 24, 16, 8] ++
    [57, 49, 41, 33, 25, 17, 9, 1, 59, 51, 43, 35, 27, 19, 11, 3] ++
    [61, 53, 45, 37, 29, 21, 13, 5, 63, 55, 47, 39, 31, 23, 15, 7]

/-- The final permutation, the inverse of `desIP`. -/
def desFP : List Nat :=
    [40, 8, 48, 16, 56, 24, 64, 32, 39, 7, 47, 15, 55, 23, 63, 31] ++
    [38, 6, 46, 14, 54, 22, 62, 30, 37, 5, 45, 13, 53, 21, 61, 29] ++
    [36, 4, 44, 12, 52, 20, 60, 28, 35, 3, 43, 11, 51, 19, 59, 27] ++
    [34, 2, 42, 10, 50, 18, 58, 26, 33, 1, 41, 9, 49, 17, 57, 25]

/-- The expansion of 32 bits to 48. -/
def desE : List Nat :=
    [32, 1, 2, 3, 4, 5, 4, 5, 6, 7, 8, 9, 8, 9, 10, 11] ++
    [12, 13, 12, 13, 14, 15, 16, 17, 16, 17, 18, 19, 20, 21, 20, 21] ++
    [22, 23, 24, 25, 24, 25, 26, 27, 28, 29, 28, 29, 30, 31, 32, 1]

/-- The permutation of the S-boxes' output. -/
def desP : List Nat :=
    [16, 7, 20, 21, 29, 12, 28, 17, 1, 15, 23, 26, 5, 18, 31, 10] ++
    [2, 8, 24, 14, 32, 27, 3, 9, 19, 13, 30, 6, 22, 11, 4, 25]

/-- Permuted choice 1: the 56 key bits; the parity bits are not selected (R13). -/
def desPC1 : List Nat :=
    [57, 49, 41, 33, 25, 17, 9, 1, 58, 50, 42, 34, 26, 18, 10, 2] ++
    [59, 51, 43, 35, 27, 19, 11, 3, 60, 52, 44, 36, 63, 55, 47, 39] ++
    [31, 23, 15, 7, 62, 54, 46, 38, 30, 22, 14, 6, 61, 53, 45, 37] ++
    [29, 21, 13, 5, 28, 20, 12, 4]

/-- Permuted choice 2: the 48 bits of a round key. -/
def desPC2 : List Nat :=
    [14, 17, 11, 24, 1, 5, 3, 28, 15, 6, 21, 10, 23, 19, 12, 4] ++
    [26, 8, 16, 7, 27, 20, 13, 2, 41, 52, 31, 37, 47, 55, 30, 40] ++
    [51, 45, 33, 48, 44, 49, 39, 56, 34, 53, 46, 42, 50, 36, 29, 32]

/-- How far the key halves stand rotated left in each round (one or two places a round, added up). -/
def desShifts : List Nat :=
    [1, 2, 4, 6, 8, 10, 12, 14, 15, 17, 19, 21, 23, 25, 27, 28]

/-- S-box 1: its four rows. -/
def desS1 : List (List Nat) := [
    [14, 4, 13, 1, 2, 15, 11, 8, 3, 10, 6, 12, 5, 9, 0, 7],
    [0, 15, 7, 4, 14, 2, 13, 1, 10, 6, 12, 11, 9, 5, 3, 8],
    [4, 1, 14, 8, 13, 6, 2, 11, 15, 12, 9, 7, 3, 10, 5, 0],
    [15, 12, 8, 2, 4, 9, 1, 7, 5, 11, 3, 14, 10, 0, 6, 13]]

/-- S-box 2: its four rows. -/
def desS2 : List (List Nat) := [
    [15, 1, 8, 14, 6, 11, 3, 4, 9, 7, 2, 13, 12, 0, 5, 10],
    [3, 13, 4, 7, 15, 2, 8, 14, 12, 0, 1, 10, 6, 9, 11, 5],
    [0, 14, 7, 11, 10, 4, 13, 1, 5, 8, 12, 6, 9, 3, 2, 15],
    [13, 8, 10, 1, 3, 15, 4, 2, 11, 6, 7, 12, 0, 5, 14, 9]]

/-- S-box 3: its four rows. -/
def desS3 : List (List Nat) := [
    [10, 0, 9, 14, 6, 3, 15, 5, 1, 13, 12, 7, 11, 4, 2, 8],
    [13, 7, 0, 9, 3, 4, 6, 10, 2, 8, 5, 14, 12, 11, 15, 1],
    [13, 6, 4, 9, 8, 15, 3, 0, 11, 1, 2, 12, 5, 10, 14, 7],
    [1, 10, 13, 0, 6, 9, 8, 7, 4, 15, 14, 3, 11, 5, 2, 12]]

/-- S-box 4: its four rows. -/
def desS4 : List (List Nat) := [
    [7, 13, 14, 3, 0, 6, 9, 10, 1, 2, 8, 5, 11, 12, 4, 15],
    [13, 8, 11, 5, 6, 15, 0, 3, 4, 7, 2, 12, 1, 10, 14, 9],
    [10, 6, 9, 0, 12, 11, 7, 13, 15, 1, 3, 14, 5, 2, 8, 4],
    [3, 15, 0, 6, 10, 1, 13, 8, 9, 4, 5, 11, 12, 7, 2, 14]]

/-- S-box 5: its four rows. -/
def desS5 : List (List Nat) := [
    [2, 12, 4, 1, 7, 10, 11, 6, 8, 5, 3, 15, 13, 0, 14, 9],
    [14, 11, 2, 12, 4, 7, 13, 1, 5, 0, 15, 10, 3, 9, 8, 6],
    [4, 2, 1, 11, 10, 13, 7, 8, 15, 9, 12, 5, 6, 3, 0, 14],
    [11, 8, 12, 7, 1, 14, 2, 13, 6, 15, 0, 9, 10, 4, 5, 3]]

/-- S-box 6: its four rows. -/
def desS6 : List (List Nat) := [
    [12, 1, 10, 15, 9, 2, 6, 8, 0, 13, 3, 4, 14, 7, 5, 11],
    [10, 15, 4, 2, 7, 12, 9, 5, 6, 1, 13, 14, 0, 11, 3, 8],
    [9, 14, 15, 5, 2, 8, 12, 3, 7, 0, 4, 10, 1, 13, 11, 6],
    [4, 3, 2, 12, 9, 5, 15, 10, 11, 14, 1, 7, 6, 0, 8, 13]]

/-- S-box 7: its four rows. -/
def desS7 : List (List Nat) := [
    [4, 11, 2, 14, 15, 0, 8, 13, 3, 12, 9, 7, 5, 10, 6, 1],
    [13, 0, 11, 7, 4, 9, 1, 10, 14, 3, 5, 12, 2, 15, 8, 6],
    [1, 4, 11, 13, 12, 3, 7, 14, 10, 15, 6, 8, 0, 5, 9, 2],
    [6, 11, 13, 8, 1, 4, 10, 7, 9, 5, 0, 15, 14, 2, 3, 12]]

/-- S-box 8: its four rows. -/
def desS8 : List (List Nat) := [
    [13, 2, 8, 4, 6, 15, 11, 1, 10, 9, 3, 14, 5, 0, 12, 7],
    [1, 15, 13, 8, 10, 3, 7, 4, 12, 5, 6, 11, 0, 14, 9, 2],
    [7, 11, 4, 1, 9, 12, 14, 2, 0, 6, 10, 13, 15, 3, 5, 8],
    [2, 1, 14, 7, 4, 10, 8, 13, 15, 12, 9, 0, 3, 5, 6, 11]]

/-- The eight S-boxes in order. -/
def desSBoxes : List (List (List Nat)) := [desS1, desS2, desS3, desS4, desS5, desS6, desS7, desS8]

/-- One S-box on six bits: the outer bits select the row, the inner four the column. -/
def desSBox (table : List (List Nat)) (c : BitVec 6) : Nat :=
  (table.getD (2 * (c.getLsbD 5).toNat + (c.getLsbD 0).toNat) []).getD (c.extractLsb' 1 4).toNat 0

/-- The cipher function of a round: expand, add the round key, substitute, permute. S-box `j` takes the
`j`-th group of six bits from the left. -/
def desF (r : BitVec 32) (k : BitVec 48) : BitVec 32 :=
  let x := permute 48 desE r ^^^ k
  let s := (List.range 8).foldl
    (fun acc j => 16 * acc + desSBox (desSBoxes.getD j []) (x.extractLsb' (42 - 6 * j) 6)) 0
  permute 32 desP (BitVec.ofNat 32 s)

/-- The sixteen round keys of an 8-byte key. -/
def desKeys (key : List Byte) : List (BitVec 48) :=
  let cd := permute 56 desPC1 (desWord key)
  let c := cd.extractLsb' 28 28
  let d := cd.extractLsb' 0 28
  desShifts.map fun n => permute 48 desPC2 (c.rotateLeft n ++ d.rotateLeft n)

/-- The Feistel rounds. -/
def desRounds : List (BitVec 48) → BitVec 32 → BitVec 32 → BitVec 32 × BitVec 32
  | [], l, r => (l, r)
  | k :: ks, l, r => desRounds ks r (l ^^^ desF r k)

/-- DES with the given round keys: the halves are exchanged after the last round. -/
def desBlock (keys : List (BitVec 48)) (blk : List Byte) : List Byte :=
  let x := permute 64 desIP (desWord blk)
  let lr := desRounds keys (x.extractLsb' 32 32) (x.extractLsb' 0 32)
  beBytes 8 (permute 64 desFP (lr.2 ++ lr.1)).toNat

/-- DES encryption of one block (FIPS 46-3; R13). -/
def desEnc (key blk : List Byte) : List Byte := desBlock (desKeys key) blk

/-- DES decryption: the round keys in reverse order. -/
def desDec (key blk : List Byte) : List Byte := desBlock (desKeys key).reverse blk

/-- TDEA, encrypt-decrypt-encrypt (R13). -/
def tdeaEnc (k1 k2 k3 blk : List Byte) : List Byte := desEnc k3 (desDec k2 (desEnc k1 blk))

/-- The inverse of `tdeaEnc` (R13). -/
def tdeaDec (k1 k2 k3 blk : List Byte) : List Byte := desDec k1 (desEnc k2 (desDec k3 blk))

end Sys2Proof.Machine
end

