-- ==== Sys2Proof/Machine/Primitives.lean ====
section
/-! DEFINITION. The configuration functions Enc, Dec, Crc32 and Crc16a (spec/00_scope.md R12, R14, R15) of a
fitted instance, and the lengths of R6 they work on. -/

namespace Sys2Proof.Machine

/-- `BL(alg)` (R6). -/
def blockLen : Alg → Nat
  | .des => 8
  | .tdes2 => 8
  | .tdes3 => 8
  | .aes => 16

/-- `KL(alg)` (R6). -/
def keyLen : Alg → Nat
  | .des => 8
  | .tdes2 => 16
  | .tdes3 => 24
  | .aes => 16

/-- `Rb(bl)` (R10): 0x1B for 8-byte blocks, 0x87 for 16-byte blocks. -/
def rb (bl : Nat) : Byte := if bl = 8 then 0x1B else 0x87

/-- Enc of the intended instance (R13): DES, 2K3DES with K3 = K1, 3K3DES, AES-128. -/
def intendedEnc (alg : Alg) (key blk : List Byte) : List Byte :=
  match alg with
  | .des => desEnc key blk
  | .tdes2 => tdeaEnc (key.take 8) ((key.drop 8).take 8) (key.take 8) blk
  | .tdes3 => tdeaEnc (key.take 8) ((key.drop 8).take 8) ((key.drop 16).take 8) blk
  | .aes => aesEnc key blk

/-- Dec of the intended instance (R13). -/
def intendedDec (alg : Alg) (key blk : List Byte) : List Byte :=
  match alg with
  | .des => desDec key blk
  | .tdes2 => tdeaDec (key.take 8) ((key.drop 8).take 8) (key.take 8) blk
  | .tdes3 => tdeaDec (key.take 8) ((key.drop 8).take 8) ((key.drop 16).take 8) blk
  | .aes => aesDec key blk

/-- `Enc(alg, key, blk)` (R12). -/
def encBlock (f : Fitted) (alg : Alg) (key blk : List Byte) : List Byte :=
  match f with
  | .intended => intendedEnc alg key blk
  | .other n => (List.range (blockLen alg)).map (Config.otherEncByte n alg key blk)

/-- `Dec(alg, key, blk)` (R12). -/
def decBlock (f : Fitted) (alg : Alg) (key blk : List Byte) : List Byte :=
  match f with
  | .intended => intendedDec alg key blk
  | .other n => (List.range (blockLen alg)).map (Config.otherDecByte n alg key blk)

/-- `Crc32(bytes)` (R14). -/
def crc32Of (f : Fitted) (bytes : List Byte) : Word :=
  match f with
  | .intended => jamCrc32 bytes
  | .other n => Config.otherCrc32 n bytes

/-- `Crc16a(bytes)` (R15). -/
def crc16aOf (f : Fitted) (bytes : List Byte) : BitVec 16 :=
  match f with
  | .intended => crcA bytes
  | .other n => Config.otherCrc16a n bytes

end Sys2Proof.Machine
end

