-- ==== Sys2Proof/Machine/Ops.lean ====
section
/-! DEFINITION. The named operations every meaning is made of: one setter for each field of State, the
fields of CTRL, rejecting a command (the engine's one form of exception entry, spec/60_exceptions.md R333,
R334, R337), the checks of R331, and what a command does when it is accepted. -/

namespace Sys2Proof.Machine

/-- What a step or a meaning answers. -/
abbrev Result := Host.Outcome State Fault Refusal

/-! ### Setters -/

/-- `R.CTRL <- v`. -/
def State.setCtrl (s : State) (v : Word) : State := { s with ctrl := v }

/-- `R.STATUS <- v`. -/
def State.setStatus (s : State) (v : Word) : State := { s with status := v }

/-- `R.LEN <- v`. -/
def State.setLen (s : State) (v : BitVec 16) : State := { s with len := v }

/-- `R.CRCR <- v`. -/
def State.setCrcr (s : State) (v : Word) : State := { s with crcr := v }

/-- `R.IV <- v`. -/
def State.setIv (s : State) (v : BlockReg) : State := { s with iv := v }

/-- `R.XIV <- v`. -/
def State.setXiv (s : State) (v : BlockReg) : State := { s with xiv := v }

/-- `R.LAST_IV <- v`. -/
def State.setLastIv (s : State) (v : BlockReg) : State := { s with lastIv := v }

/-- `R.SK1 <- v`. -/
def State.setSk1 (s : State) (v : BlockReg) : State := { s with sk1 := v }

/-- `R.SK2 <- v`. -/
def State.setSk2 (s : State) (v : BlockReg) : State := { s with sk2 := v }

/-- `R.KEY <- v`. -/
def State.setKey (s : State) (v : KeyBytes) : State := { s with key := v }

/-- `R.SKENC <- v`. -/
def State.setSkenc (s : State) (v : KeyBytes) : State := { s with skenc := v }

/-- `R.SKMAC <- v`. -/
def State.setSkmac (s : State) (v : KeyBytes) : State := { s with skmac := v }

/-- `R.DBUF[lo..<lo+|bs|] <- bs`. -/
def State.setDbuf (s : State) (lo : Nat) (bs : List Byte) : State :=
  { s with dbuf := memStoreBytes s.dbuf lo bs }

/-- The host's list of events becomes `v`. -/
def State.setPending (s : State) (v : List HostEvent) : State := { s with pending := v }

/-- The bus returns `v` to the host. -/
def State.setRdata (s : State) (v : Word) : State := { s with rdata := some v }

/-! ### The fields of CTRL and LEN -/

/-- `R.CTRL.ALG` as an algorithm; none for the reserved values 4 to 7 (spec/10_state.md R42, R43). -/
def State.alg (s : State) : Option Alg :=
  match (s.ctrl.extractLsb' 0 3).toNat with
  | 0 => some .des
  | 1 => some .tdes2
  | 2 => some .tdes3
  | 3 => some .aes
  | _ => none

/-- `R.CTRL.CHAN` (R42, R44). -/
def State.chan (s : State) : Chan :=
  match (s.ctrl.extractLsb' 4 2).toNat with
  | 0 => .none
  | 1 => .d40
  | 2 => .ev1
  | _ => .ev2

/-- The bits of CTRL that are stored: [2:0] and [5:4] (R42; spec/20_memory.md R107 (b)). -/
def ctrlMask : Word := 0x37

/-- The bits of CTRL that hold ALG (R42). -/
def algMask : Word := 0x07

/-- The bits of CTRL that hold CHAN (R42). -/
def chanMask : Word := 0x30

/-- `R.LEN` as an unbounded natural number (spec/00_scope.md R25). -/
def State.lenNat (s : State) : Nat := s.len.toNat

/-- `R.DBUF[0..<R.LEN]`. -/
def State.data (s : State) : List Byte := dbufRead s 0 s.lenNat

/-! ### Rejecting and accepting a command -/

/-- The error code (spec/60_exceptions.md R330). -/
def EngineError.code : EngineError → Word
  | .illegalCmd => 1
  | .badAlg => 2
  | .lenRange => 3
  | .lenAlign => 4

/-- `raise EngineError(e)`: STATUS becomes `0x1 | code << 4` and nothing else changes
(spec/60_exceptions.md R333, R334). The engine has no trap entry and no trap return (R337, R338): this is
all that an error does. -/
def State.reject (s : State) (e : EngineError) : State := s.setStatus (0x1 ||| e.code <<< 4)

/-- A rejected command completes: the host goes on with its next access (R337). -/
def rejected (e : EngineError) (s : State) : Result := .next (s.reject e)

/-- An accepted command other than a verify: STATUS becomes 0 (R334). -/
def accepted (s : State) : Result := .next (s.setStatus 0)

/-- An accepted verify: STATUS becomes 0x2 on a match, else 0 (R332, R334). -/
def verified (ok : Bool) (s : State) : Result := .next (s.setStatus (if ok then 0x2 else 0x0))

/-! ### Checks, each handing what it found to the rest of the command (R331) -/

/-- "CTRL.ALG <= 3", else BAD_ALG. -/
def requireAlg (s : State) (go : Alg → Result) : Result :=
  match s.alg with
  | some a => go a
  | none => rejected .badAlg s

/-- "LEN + extra <= BUF_BYTES", else LEN_RANGE. -/
def requireRoom (extra : Nat) (s : State) (go : Result) : Result :=
  if s.lenNat + extra ≤ Config.bufBytes then go else rejected .lenRange s

/-- "LEN mod bl == 0", else LEN_ALIGN. -/
def requireAligned (bl : Nat) (s : State) (go : Result) : Result :=
  if s.lenNat % bl = 0 then go else rejected .lenAlign s

/-! ### Zeroing -/

/-- `0^16`. -/
def zeroBlock : BlockReg := Vector.replicate 16 0

/-- `0^24`. -/
def zeroKey : KeyBytes := Vector.replicate 24 0

/-- The D40 IV-reset policy at the start of a cipher pass: all 16 bytes of IV become 0 if CHAN is D40
(spec/41_chain.md R224). -/
def State.d40Reset (s : State) : State := if s.chan = .d40 then s.setIv zeroBlock else s

/-! ### Reset -/

/-- The reset event (spec/70_reset_and_hazards.md R370, R371): every register gets its reset value and DBUF
becomes unspecified, in a fresh draw. What the host does next, and what the engine is built with, stay
(log entries 1, 2 and 10). -/
def State.afterReset (s : State) : State :=
  { State.reset with epoch := s.epoch + 1, fitted := s.fitted, pending := s.pending }

end Sys2Proof.Machine
end

