-- ==== Sys2Proof/Machine/Operands.lean ====
section
/-! DEFINITION. The operands a command reads: the selected key (spec/10_state.md R60, spec/41_chain.md R220), the
primitive (R221), the general form's direction and mode (R228) and the IV register it starts from and
writes back to (R225, R226). -/

namespace Sys2Proof.Machine

/-- `KeyReg(ksel)`; none for the reserved value 3 (spec/10_state.md R60). -/
def State.keyReg (s : State) : KeySel → Option KeyBytes
  | .static => some s.key
  | .senc => some s.skenc
  | .smac => some s.skmac
  | .reserved => none

/-- "KSEL != 3", else ILLEGAL_CMD (R60; spec/30_encoding.md R147). The first check of a command with a key. -/
def requireKey (k : KeySel) (s : State) (go : KeyBytes → Result) : Result :=
  match s.keyReg k with
  | some reg => go reg
  | none => rejected .illegalCmd s

/-- `KeyReg(KSEL)[0..<kl]` (spec/41_chain.md R220). -/
def keyOf (a : Alg) (reg : KeyBytes) : List Byte := reg.toList.take (keyLen a)

/-- `Prim(mode)` with its algorithm and key (spec/41_chain.md R221). -/
def prim (f : Fitted) (a : Alg) (key : List Byte) : Mode → List Byte → List Byte
  | .encode, blk => encBlock f a key blk
  | .decode, blk => decBlock f a key blk

/-- `Resolve(ENC)`, the direction (spec/41_chain.md R228). -/
def resolveDir (enc : Bool) : Dir := if enc then .send else .receive

/-- `Resolve(ENC)`, the mode: Encode only for ENC = 1 outside D40 (R228). -/
def resolveMode (enc : Bool) (c : Chan) : Mode := if enc && c != .d40 then .encode else .decode

/-- The IV register the X field names (spec/30_encoding.md R145). -/
def State.ivReg (s : State) : IvSource → BlockReg
  | .context => s.iv
  | .external => s.xiv

/-- Write the IV register the X field names. -/
def State.setIvReg (s : State) (x : IvSource) (v : BlockReg) : State :=
  match x with
  | .context => s.setIv v
  | .external => s.setXiv v

/-- The starting IV `x0`: the first `bl` bytes of the chosen register (spec/41_chain.md R226). -/
def State.startIv (s : State) (x : IvSource) (bl : Nat) : List Byte := (s.ivReg x).toList.take bl

/-- IV write-back: bytes `[0..<|xf|]` of the chosen register, the others kept (spec/41_chain.md R225). -/
def State.writeBackIv (s : State) (x : IvSource) (xf : List Byte) : State :=
  s.setIvReg x (setPrefix (s.ivReg x) xf)

end Sys2Proof.Machine
end

