-- ==== Sys2Proof/Machine/Chain.lean ====
section
/-! DEFINITION. The chained-cipher commands (spec/41_chain.md R220 to R229). -/

namespace Sys2Proof.Machine

/-- One chaining step (R222): the output block and the next running IV. Send XORs before the primitive
and carries the output; Receive XORs after it and carries the input. -/
def chainStep (d : Dir) (e : List Byte → List Byte) (p x : List Byte) : List Byte × List Byte :=
  match d with
  | .send => (e (xorBytes p x), e (xorBytes p x))
  | .receive => (xorBytes (e p) x, p)

/-- One chained pass over a list of blocks (R223): the output and the final running IV. -/
def passBlocks (d : Dir) (e : List Byte → List Byte) :
    List (List Byte) → List Byte → List Byte × List Byte
  | [], x => ([], x)
  | p :: ps, x =>
    let o := chainStep d e p x
    let r := passBlocks d e ps o.2
    (o.1 ++ r.1, r.2)

/-- The consecutive blocks of a byte string whose length is a multiple of `bl` (R223). -/
def blocksOf (bl : Nat) (src : List Byte) : List (List Byte) :=
  (List.range (src.length / bl)).map fun k => (src.drop (k * bl)).take bl

/-- `Pass(send, mode, key, src, x0)` (R223), a pure function. -/
def pass (d : Dir) (e : List Byte → List Byte) (bl : Nat) (src x0 : List Byte) :
    List Byte × List Byte :=
  passBlocks d e (blocksOf bl src) x0

/-- What an accepted chained transform does, from the D40 reset on (R226, R227): transform
`DBUF[0..<LEN]` in place and write the final running IV back. -/
def chainTransform (a : Alg) (key : List Byte) (d : Dir) (m : Mode) (x : IvSource) (s : State) : State :=
  let s0 := s.d40Reset
  let r := pass d (prim s.fitted a key m) (blockLen a) s0.data (s0.startIv x (blockLen a))
  (s0.setDbuf 0 r.1).writeBackIv x r.2

/-- CHAINX (R226). -/
def execChainx (k : KeySel) (d : Dir) (m : Mode) (x : IvSource) (s : State) : Result :=
  requireKey k s fun reg =>
  requireAlg s fun a =>
  requireRoom 0 s <|
  requireAligned (blockLen a) s <|
  accepted (chainTransform a (keyOf a reg) d m x s)

/-- CHAIN (R227): the direction and the mode are resolved from ENC and CHAN (R228), the IV is the
persistent one. -/
def execChain (k : KeySel) (enc : Bool) (s : State) : Result :=
  requireKey k s fun reg =>
  requireAlg s fun a =>
  requireRoom 0 s <|
  requireAligned (blockLen a) s <|
  accepted (chainTransform a (keyOf a reg) (resolveDir enc) (resolveMode enc s.chan) .context s)

end Sys2Proof.Machine
end

