-- ==== Sys2Proof/Machine/Cmac.lean ====
section
/-! DEFINITION. The CMAC commands (spec/42_cmac.md R260 to R268). -/

namespace Sys2Proof.Machine

/-- `dbl(v)` (R260): the block as a big-endian integer, shifted left by one modulo `2^(8*bl)`; if its top
bit was 1, Rb is XORed into the last byte. -/
def dbl (v : List Byte) : List Byte :=
  let bl := v.length
  let w := beBytes bl (beNat v * 2 % 2 ^ (8 * bl))
  if (v.getD 0 0).getLsbD 7 then w.set (bl - 1) (w.getD (bl - 1) 0 ^^^ rb bl) else w

/-- `L`: one Send/Encode pass over a zero block from a zero scratch IV, whatever CHAN is (R261). -/
def subkeyL (f : Fitted) (a : Alg) (key : List Byte) : List Byte :=
  (pass .send (prim f a key .encode) (blockLen a) (zeroBytes (blockLen a)) (zeroBytes (blockLen a))).1

/-- `sk1` (R261). -/
def subkey1 (f : Fitted) (a : Alg) (key : List Byte) : List Byte := dbl (subkeyL f a key)

/-- `sk2` (R261). -/
def subkey2 (f : Fitted) (a : Alg) (key : List Byte) : List Byte := dbl (subkey1 f a key)

/-- `sk ‖ 0^(16-bl)` as a register (R262). -/
def subkeyReg (sk : List Byte) : BlockReg := setPrefix zeroBlock sk

/-- `Subkeys(KSEL)` and the writes of SK1 and SK2 (R261, R262, R264). The pass is a chainTransform call, so
under D40 it zeroes IV (R224). -/
def withSubkeys (a : Alg) (key : List Byte) (s : State) : State :=
  (s.d40Reset.setSk1 (subkeyReg (subkey1 s.fitted a key))).setSk2
    (subkeyReg (subkey2 s.fitted a key))

/-- `buf` with its last `bl` bytes XORed with `sk`. -/
def xorLast (bl : Nat) (buf sk : List Byte) : List Byte :=
  buf.take (buf.length - bl) ++ xorBytes (buf.drop (buf.length - bl)) sk

/-- `z`, the least number of zero bytes after the 0x80 that fills the last block (R263). -/
def padZeros (bl n : Nat) : Nat := (bl - (n + 1) % bl) % bl

/-- `Pad(d, sk1, sk2)` (R263). -/
def padded (bl : Nat) (d sk1 sk2 : List Byte) : List Byte :=
  if d.length = 0 ∨ d.length % bl ≠ 0 then
    xorLast bl (d ++ [0x80] ++ zeroBytes (padZeros bl d.length)) sk2
  else xorLast bl d sk1

/-- What an accepted CMAC does (R264): the subkeys, then the general form's pass, with ENC = 1, over the
padded data from the persistent IV. The output of the pass is discarded; its final IV is the MAC. -/
def macTransform (a : Alg) (key : List Byte) (s : State) : State :=
  let s1 := withSubkeys a key s
  let buf := padded (blockLen a) s1.data (subkey1 s.fitted a key) (subkey2 s.fitted a key)
  let s2 := s1.d40Reset
  let r := pass (resolveDir true) (prim s.fitted a key (resolveMode true s.chan)) (blockLen a) buf
    (s2.startIv .context (blockLen a))
  s2.writeBackIv .context r.2

/-- CMACSK (R262). It does not read LEN. -/
def execCmacsk (k : KeySel) (s : State) : Result :=
  requireKey k s fun reg =>
  requireAlg s fun a =>
  accepted (withSubkeys a (keyOf a reg) s)

/-- CMAC (R264). LEN need not be a multiple of the block length. -/
def execCmac (k : KeySel) (s : State) : Result :=
  requireKey k s fun reg =>
  requireAlg s fun a =>
  requireRoom 0 s <|
  accepted (macTransform a (keyOf a reg) s)

end Sys2Proof.Machine
end

