-- ==== Sys2Proof/Machine/Context.lean ====
section
/-! DEFINITION. NOP and the context-clearing commands (spec/43_context.md R300 to R303). Their only check is
the word's legality, which the decoder makes. -/

namespace Sys2Proof.Machine

/-- The writes of CLRSESS (R302): CHAN to None, and IV, LAST_IV, the session keys and the subkeys to zero. -/
def State.clearSession (s : State) : State :=
  (((((s.setCtrl (s.ctrl &&& ~~~chanMask)).setIv zeroBlock).setLastIv zeroBlock).setSkenc zeroKey).setSkmac
    zeroKey |>.setSk1 zeroBlock).setSk2 zeroBlock

/-- NOP (R300). -/
def execNop (s : State) : Result := accepted s

/-- CLRIV (R301): all 16 bytes, whatever the block length. -/
def execClriv (s : State) : Result := accepted (s.setIv zeroBlock)

/-- CLRSESS (R302). -/
def execClrsess (s : State) : Result := accepted s.clearSession

/-- CLRCTX (R303): all writes of CLRSESS, then ALG and KEY. -/
def execClrctx (s : State) : Result :=
  let t := s.clearSession
  accepted ((t.setCtrl (t.ctrl &&& ~~~algMask)).setKey zeroKey)

end Sys2Proof.Machine
end

