-- ==== Sys2Proof/Machine/CrcOps.lean ====
section
/-! DEFINITION. The CRC commands (spec/40_crc.md R180 to R187). They read LEN and DBUF and no other register
(R181). -/

namespace Sys2Proof.Machine

/-- `Crc32(R.DBUF[0..<R.LEN])`. -/
def State.dataCrc32 (s : State) : Word := crc32Of s.fitted s.data

/-- `Crc16a(R.DBUF[0..<R.LEN])`. -/
def State.dataCrc16a (s : State) : BitVec 16 := crc16aOf s.fitted s.data

/-- Append `crc` after the data: it is written at `DBUF[LEN..]` and LEN grows by its length (R183, R186). -/
def State.appendCrc (s : State) (crc : List Byte) : State :=
  (s.setDbuf s.lenNat crc).setLen (BitVec.ofNat 16 (s.lenNat + crc.length))

/-- Does `crc` stand right after the data (R184, R187)? -/
def State.crcMatches (s : State) (crc : List Byte) : Bool :=
  dbufRead s s.lenNat crc.length == crc

/-- CRC32 (R182). -/
def execCrc32 (s : State) : Result :=
  requireRoom 0 s (accepted (s.setCrcr s.dataCrc32))

/-- CRC32A (R183). -/
def execCrc32a (s : State) : Result :=
  requireRoom 4 s (accepted ((s.appendCrc (bytes32 s.dataCrc32)).setCrcr s.dataCrc32))

/-- CRC32V (R184). -/
def execCrc32v (s : State) : Result :=
  requireRoom 4 s (verified (s.crcMatches (bytes32 s.dataCrc32)) (s.setCrcr s.dataCrc32))

/-- CRC16 (R185). -/
def execCrc16 (s : State) : Result :=
  requireRoom 0 s (accepted (s.setCrcr (s.dataCrc16a.setWidth 32)))

/-- CRC16A (R186). -/
def execCrc16a (s : State) : Result :=
  requireRoom 2 s
    (accepted ((s.appendCrc (bytes16 s.dataCrc16a)).setCrcr (s.dataCrc16a.setWidth 32)))

/-- CRC16V (R187). -/
def execCrc16v (s : State) : Result :=
  requireRoom 2 s
    (verified (s.crcMatches (bytes16 s.dataCrc16a)) (s.setCrcr (s.dataCrc16a.setWidth 32)))

end Sys2Proof.Machine
end

