-- ==== Sys2Proof/Machine/Dispatch.lean ====
section
/-! DEFINITION. Which meaning each command has: one direct call for each constructor. -/

namespace Sys2Proof.Machine

/-- The operation a command names, performed as one atomic step (spec/10_state.md R45). -/
def exec (i : Instr) (s : State) : Host.Outcome State Fault Refusal :=
  match i with
  | .nop => Sys2Proof.Machine.execNop s
  | .chainx k d m x => Sys2Proof.Machine.execChainx k d m x s
  | .chain k enc => Sys2Proof.Machine.execChain k enc s
  | .cmacsk k => Sys2Proof.Machine.execCmacsk k s
  | .cmac k => Sys2Proof.Machine.execCmac k s
  | .crc32 => Sys2Proof.Machine.execCrc32 s
  | .crc32a => Sys2Proof.Machine.execCrc32a s
  | .crc32v => Sys2Proof.Machine.execCrc32v s
  | .crc16 => Sys2Proof.Machine.execCrc16 s
  | .crc16a => Sys2Proof.Machine.execCrc16a s
  | .crc16v => Sys2Proof.Machine.execCrc16v s
  | .clriv => Sys2Proof.Machine.execClriv s
  | .clrsess => Sys2Proof.Machine.execClrsess s
  | .clrctx => Sys2Proof.Machine.execClrctx s

end Sys2Proof.Machine
end

