-- ==== Sys2Proof/Machine/Window.lean ====
section
/-! DEFINITION. The register window as the host sees it (spec/20_memory.md R100 to R107). -/

namespace Sys2Proof.Machine

/-- The address map (R101). What it does not list below 0x800 is reserved. -/
def addressMap : List Region :=
  [⟨0x000, 4, .ctrl⟩, ⟨0x004, 4, .cmd⟩, ⟨0x008, 4, .status⟩, ⟨0x00C, 4, .len⟩, ⟨0x010, 4, .crcr⟩,
   ⟨0x020, 16, .iv⟩, ⟨0x030, 16, .xiv⟩, ⟨0x040, 16, .lastIv⟩, ⟨0x050, 16, .sk1⟩, ⟨0x060, 16, .sk2⟩,
   ⟨0x080, 24, .key⟩, ⟨0x0A0, 24, .skenc⟩, ⟨0x0C0, 24, .skmac⟩, ⟨0x400, Config.bufBytes, .dbuf⟩]

/-- Does a region hold an offset? -/
def Region.holds (r : Region) (off : Nat) : Bool := r.base ≤ off && off < r.base + r.size

/-- The register at an offset and the offset within it; none at a reserved offset (R101, R102). -/
def locate (off : Nat) : Option (RegName × Nat) :=
  match addressMap.find? fun r => r.holds off with
  | some r => some (r.reg, off - r.base)
  | none => none

/-- The only accesses the engine accepts: 32 bits wide, aligned, inside the window (R104). -/
def accessOk (width addr : Nat) : Bool :=
  width == 4 && addr % 4 == 0 && addr < Config.windowBytes

/-- The word a host read finds at offset `o` within a register (R103). CMD reads 0 (spec/10_state.md R45); the
bits above LEN's stored 16 read 0 (R50). -/
def State.readReg (s : State) (r : RegName) (o : Nat) : Word :=
  match r with
  | .ctrl => s.ctrl
  | .cmd => 0
  | .status => s.status
  | .len => s.len.setWidth 32
  | .crcr => s.crcr
  | .iv => arrayWord s.iv o
  | .xiv => arrayWord s.xiv o
  | .lastIv => arrayWord s.lastIv o
  | .sk1 => arrayWord s.sk1 o
  | .sk2 => arrayWord s.sk2 o
  | .key => arrayWord s.key o
  | .skenc => arrayWord s.skenc o
  | .skmac => arrayWord s.skmac o
  | .dbuf => wordOfBytes (dbufByte s o) (dbufByte s (o + 1)) (dbufByte s (o + 2)) (dbufByte s (o + 3))

/-- `MemRead(off, 4)`: the word at a window offset; 0 at a reserved one (R102). -/
def State.readWord (s : State) (off : Nat) : Word :=
  match locate off with
  | some (r, o) => s.readReg r o
  | none => 0

/-- What a host write stores at offset `o` within a register (R107). STATUS, CRCR, SK1 and SK2 ignore it;
CMD stores nothing (spec/10_state.md R45; the operation it starts is `runCommand`). -/
def State.writeReg (s : State) (r : RegName) (o : Nat) (v : Word) : State :=
  match r with
  | .ctrl => s.setCtrl (v &&& ctrlMask)
  | .cmd => s
  | .status => s
  | .len => s.setLen (v.setWidth 16)
  | .crcr => s
  | .iv => s.setIv (setArrayWord s.iv o v)
  | .xiv => s.setXiv (setArrayWord s.xiv o v)
  | .lastIv => s.setLastIv (setArrayWord s.lastIv o v)
  | .sk1 => s
  | .sk2 => s
  | .key => s.setKey (setArrayWord s.key o v)
  | .skenc => s.setSkenc (setArrayWord s.skenc o v)
  | .skmac => s.setSkmac (setArrayWord s.skmac o v)
  | .dbuf => s.setDbuf o (bytes32 v)

/-- `MemWrite(off, 4, v)` at an offset other than CMD's; nothing at a reserved one (R102, R107). -/
def State.writeWord (s : State) (off : Nat) (v : Word) : State :=
  match locate off with
  | some (r, o) => s.writeReg r o v
  | none => s

/-- CMD's offset (spec/10_state.md R45). -/
def cmdOffset : Nat := 0x004

/-- The host address of a window offset (spec/00_scope.md R9; R100). -/
def hostAddress (off : Nat) : Nat := Config.regBase + off

/-- The window offset of a host address; none outside the window, which "is the platform's business"
(R101; log entry 7). -/
def offsetOfHostAddress (a : Nat) : Option Nat :=
  if Config.regBase ≤ a ∧ a < Config.regBase + Config.windowBytes then some (a - Config.regBase) else none

end Sys2Proof.Machine
end

