-- ==== Sys2Proof/Machine/Bus.lean ====
section
/-! DEFINITION. What one host event does: a read, a write, a command, a reset (spec/00_scope.md R5, R20;
spec/20_memory.md R104 to R109). -/

namespace Sys2Proof.Machine

/-- A write of `w` to CMD performs the command it encodes; a word that encodes none is ILLEGAL_CMD and
performs nothing (spec/10_state.md R45; spec/30_encoding.md R147, R150). -/
def runCommand (w : Word) (s : State) : Result :=
  match decode w with
  | .ok i => exec i s
  | .error _ => rejected .illegalCmd s

/-- One host event, performed completely before the next (R108, R109). An access that is not an aligned
32-bit access inside the window is BusError (R105; past the window's end, DEDUCED, log entry 6). -/
def performEvent (e : HostEvent) (s : State) : Result :=
  match e with
  | .read width addr =>
    if accessOk width addr then .next (s.setRdata (s.readWord addr)) else .fault (.busError addr)
  | .write width addr v =>
    if accessOk width addr then
      if addr = cmdOffset then runCommand v s else .next (s.writeWord addr v)
    else .fault (.busError addr)
  | .reset => .next s.afterReset

/-- The host event that writes a command word to CMD. -/
def commandEvent (w : Word) : HostEvent := .write 4 cmdOffset w

end Sys2Proof.Machine
end

