-- ==== Sys2Proof/Machine/Step.lean ====
section
/-! DEFINITION. The step: the next host event, or nothing when the host does nothing. -/

namespace Sys2Proof.Machine

/-- One step is one host access (spec/00_scope.md R5). The engine never acts on its own (R24), so with no
event pending nothing changes (log entry 5). The order of the events is the order in which the port accepts
them (spec/20_memory.md R109; log entry 12); a step takes no time (log entry 13). -/
def step (s : State) : Host.Outcome State Fault Refusal :=
  match s.pending with
  | [] => .next s
  | e :: rest => Sys2Proof.Machine.performEvent e (s.setPending rest)

/-- `s` with the host about to write the command word to CMD: the engine fetches nothing (spec/10_state.md
R40), its next instruction is the next word written to CMD (log entry 3). -/
def State.withFetchWord (s : State) (nbits w : Nat) : State :=
  s.setPending (Sys2Proof.Machine.commandEvent (BitVec.ofNat 32 (w % 2 ^ nbits)) :: s.pending)

end Sys2Proof.Machine
end

