-- ==== Sys2Proof/Machine/Flags.lean ====
section
/-! DEFINITION. The flags of STATUS (spec/10_state.md R46 to R49, R63): how the host reads them. They are written
by `State.reject`, `accepted` and `verified` alone (spec/60_exceptions.md R334). -/

namespace Sys2Proof.Machine

/-- STATUS.ERR, bit 0 (R47). -/
def State.err (s : State) : Bool := s.status.getLsbD 0

/-- STATUS.VOK, bit 1 (R48). -/
def State.vok (s : State) : Bool := s.status.getLsbD 1

/-- STATUS.ERRCODE, bits [7:4] (R49). -/
def State.errCode (s : State) : BitVec 4 := s.status.extractLsb' 4 4

end Sys2Proof.Machine
end

