-- ==== Sys2Proof/Machine/HostProgram.lean ====
section
/-! DEFINITION. The host-program notation of spec/30_encoding.md R151 and its pseudo-instructions (R152), each as
the list of host events it expands to. -/

namespace Sys2Proof.Machine

/-- `WR <target>, <value32>` (R151). -/
def wr (off : Nat) (v : Word) : HostEvent := .write 4 off v

/-- `RD <target>` (R151). -/
def rd (off : Nat) : HostEvent := .read 4 off

/-- A mnemonic line (R151). -/
def command (i : Instr) : HostEvent := commandEvent (encode i)

/-- The offset of a register (spec/10_state.md R41). -/
def regOffset : RegName → Nat
  | .ctrl => 0x000
  | .cmd => 0x004
  | .status => 0x008
  | .len => 0x00C
  | .crcr => 0x010
  | .iv => 0x020
  | .xiv => 0x030
  | .lastIv => 0x040
  | .sk1 => 0x050
  | .sk2 => 0x060
  | .key => 0x080
  | .skenc => 0x0A0
  | .skmac => 0x0C0
  | .dbuf => 0x400

/-- `LDB`: the bytes as words from offset `off` on; "bytes past the end of the list are 0" (R152). -/
def ldb : Nat → List Byte → List HostEvent
  | _, [] => []
  | off, [b0] => [wr off (wordOfBytes b0 0 0 0)]
  | off, [b0, b1] => [wr off (wordOfBytes b0 b1 0 0)]
  | off, [b0, b1, b2] => [wr off (wordOfBytes b0 b1 b2 0)]
  | off, b0 :: b1 :: b2 :: b3 :: bs => wr off (wordOfBytes b0 b1 b2 b3) :: ldb (off + 4) bs

/-- The ALG value of an algorithm (spec/10_state.md R42). -/
def algCode : Alg → Word
  | .des => 0
  | .tdes2 => 1
  | .tdes3 => 2
  | .aes => 3

/-- The CHAN value of a channel kind (R42). -/
def chanCode : Chan → Word
  | .none => 0
  | .d40 => 1
  | .ev1 => 2
  | .ev2 => 3

/-- `SETCTRL alg, chan` (R152). -/
def setctrl (a : Alg) (c : Chan) : HostEvent := wr (regOffset .ctrl) (algCode a ||| chanCode c <<< 4)

/-- `SETLEN <n>` (R152). -/
def setlen (n : Nat) : HostEvent := wr (regOffset .len) (BitVec.ofNat 32 n)

/-- `ENCRYPT k=<key>` (R152). -/
def encryptCmd (k : KeySel) : HostEvent := command (.chain k true)

/-- `DECRYPT k=<key>` (R152). -/
def decryptCmd (k : KeySel) : HostEvent := command (.chain k false)

/-- `ECB1 k=<key>` (R152). -/
def ecb1 (k : KeySel) : List HostEvent :=
  [wr (regOffset .xiv) 0, wr (regOffset .xiv + 4) 0, wr (regOffset .xiv + 8) 0, wr (regOffset .xiv + 12) 0,
   command (.chainx k .send .encode .external)]

/-- `CHKOK` reads STATUS (R152). -/
def chkok : HostEvent := rd (regOffset .status)

/-- What `CHKOK` then requires of the word read: bit 0 (ERR) is 0 (R152). -/
def chkokHolds (s : State) : Bool :=
  match s.rdata with
  | some w => !w.getLsbD 0
  | none => false

end Sys2Proof.Machine
end

