-- ==== Sys2Proof/Safety.lean ====
section
/-! DEFINITION. The terms the statements are made in: which host accesses are safe, the invariant of every
state, what may differ between two states, the check order of spec/60_exceptions.md R331 on its own, and the
standard CMAC. None of it is used by the machine. -/

namespace Sys2Proof.Machine

/-! ### Safe host programs -/

/-- The engine accepts the event: a reset, or an aligned 32-bit access at an offset 0x000 to 0x7FC
(spec/20_memory.md R104). -/
def HostEvent.ok : HostEvent → Bool
  | .read width addr => accessOk width addr
  | .write width addr _ => accessOk width addr
  | .reset => true

/-- A run is safe as long as the host makes no access that is refused (R105). -/
def hostSafe (s : State) : Prop := ∀ e ∈ s.pending, e.ok = true

/-- No caller-contract error in the last command (spec/10_state.md R47). -/
def errorFree (s : State) : Prop := s.err = false

/-! ### The invariant -/

/-- The STATUS values a command can leave (spec/60_exceptions.md R330, column "STATUS after"). -/
def statusValues : List Word := [0x00, 0x02, 0x11, 0x21, 0x31, 0x41]

/-- What holds in every state a run reaches: the reserved bits of CTRL are 0 (spec/10_state.md R42), STATUS is a
value some command leaves (R46, R49), and DBUF's cells are in canonical form. -/
def State.Inv (s : State) : Prop :=
  s.ctrl &&& ~~~ctrlMask = 0 ∧ s.status ∈ statusValues ∧ Memory.wf s.dbuf

/-! ### Frames -/

/-- The fields of State, by name. -/
inductive Field where
  | ctrl
  | status
  | len
  | crcr
  | iv
  | xiv
  | lastIv
  | sk1
  | sk2
  | key
  | skenc
  | skmac
  | dbuf
  | epoch
  | fitted
  | pending
  | rdata
  deriving DecidableEq, Repr

/-- Two states agree on a field. For DBUF: every byte reads the same. -/
def agree (s t : State) : Field → Prop
  | .ctrl => t.ctrl = s.ctrl
  | .status => t.status = s.status
  | .len => t.len = s.len
  | .crcr => t.crcr = s.crcr
  | .iv => t.iv = s.iv
  | .xiv => t.xiv = s.xiv
  | .lastIv => t.lastIv = s.lastIv
  | .sk1 => t.sk1 = s.sk1
  | .sk2 => t.sk2 = s.sk2
  | .key => t.key = s.key
  | .skenc => t.skenc = s.skenc
  | .skmac => t.skmac = s.skmac
  | .dbuf => ∀ i, dbufByte t i = dbufByte s i
  | .epoch => t.epoch = s.epoch
  | .fitted => t.fitted = s.fitted
  | .pending => t.pending = s.pending
  | .rdata => t.rdata = s.rdata

/-- From `s` to `t` nothing changes but, at most, the listed fields. -/
def frame (s t : State) (changed : List Field) : Prop := ∀ f, f ∉ changed → agree s t f

/-! ### The check order (spec/60_exceptions.md R331) -/

/-- "op in CHAINX, CHAIN, CMACSK, CMAC". -/
def usesCipher : Instr → Bool
  | .nop => false
  | .chainx _ _ _ _ => true
  | .chain _ _ => true
  | .cmacsk _ => true
  | .cmac _ => true
  | .crc32 => false
  | .crc32a => false
  | .crc32v => false
  | .crc16 => false
  | .crc16a => false
  | .crc16v => false
  | .clriv => false
  | .clrsess => false
  | .clrctx => false

/-- What the operation adds to LEN in its LEN_RANGE check; none if it has no such check. -/
def roomNeeded : Instr → Option Nat
  | .nop => none
  | .chainx _ _ _ _ => some 0
  | .chain _ _ => some 0
  | .cmacsk _ => none
  | .cmac _ => some 0
  | .crc32 => some 0
  | .crc32a => some 4
  | .crc32v => some 4
  | .crc16 => some 0
  | .crc16a => some 2
  | .crc16v => some 2
  | .clriv => none
  | .clrsess => none
  | .clrctx => none

/-- "op in CHAINX, CHAIN": the commands with a LEN_ALIGN check. -/
def needsAligned : Instr → Bool
  | .nop => false
  | .chainx _ _ _ _ => true
  | .chain _ _ => true
  | .cmacsk _ => false
  | .cmac _ => false
  | .crc32 => false
  | .crc32a => false
  | .crc32v => false
  | .crc16 => false
  | .crc16a => false
  | .crc16v => false
  | .clriv => false
  | .clrsess => false
  | .clrctx => false

/-- The LEN_RANGE checks: the operation would touch DBUF at or beyond BUF_BYTES. -/
def overruns (i : Instr) (s : State) : Bool :=
  match roomNeeded i with
  | some n => Config.bufBytes < s.len.toNat + n
  | none => false

/-- `R.CTRL.ALG` as a number. -/
def algValue (s : State) : Nat := (s.ctrl.extractLsb' 0 3).toNat

/-- `BL(R.CTRL.ALG)` by the table of spec/00_scope.md R6. -/
def blOfValue (v : Nat) : Nat := if v = 3 then 16 else 8

/-- The first check that fails (R331); none if the command is accepted. -/
def firstError (i : Instr) (s : State) : Option EngineError :=
  if i.wf = false then some .illegalCmd
  else if usesCipher i = true ∧ algValue s > 3 then some .badAlg
  else if overruns i s = true then some .lenRange
  else if needsAligned i = true ∧ s.len.toNat % blOfValue (algValue s) ≠ 0 then some .lenAlign
  else none

/-- `Check(w)` of R331, transcribed: the first check that a word written to CMD fails, on the bare word, by the
numbers of spec/30_encoding.md R148. The decoder and the commands' meanings do not use it. -/
def checkWord (w : Word) (s : State) : Option EngineError :=
  let op := (opField w).toNat
  let len := s.len.toNat
  if legal w = false then some .illegalCmd
  else if op ∈ [1, 2, 3, 4] ∧ algValue s > 3 then some .badAlg
  else if op ∈ [1, 2, 4, 5, 8] ∧ len > Config.bufBytes then some .lenRange
  else if op ∈ [6, 7] ∧ len + 4 > Config.bufBytes then some .lenRange
  else if op ∈ [9, 10] ∧ len + 2 > Config.bufBytes then some .lenRange
  else if op ∈ [1, 2] ∧ len % blOfValue (algValue s) ≠ 0 then some .lenAlign
  else none

/-! ### The offsets of the window, by what a host access does there (spec/20_memory.md R101, R102, R107) -/

/-- The offsets of a read/write byte-array register: IV, XIV, LAST_IV, KEY, SKENC, SKMAC and DBUF. -/
def arrayOffset (a : Nat) : Prop :=
  (0x020 ≤ a ∧ a < 0x050) ∨ (0x080 ≤ a ∧ a < 0x098) ∨ (0x0A0 ≤ a ∧ a < 0x0B8) ∨
    (0x0C0 ≤ a ∧ a < 0x0D8) ∨ (0x400 ≤ a ∧ a < 0x800)

/-- The offsets of a read-only register: STATUS, CRCR, SK1 and SK2 (R107 (d)). -/
def readOnlyOffset (a : Nat) : Prop :=
  (0x008 ≤ a ∧ a < 0x00C) ∨ (0x010 ≤ a ∧ a < 0x014) ∨ (0x050 ≤ a ∧ a < 0x070)

/-- The reserved offsets (R101). -/
def reservedOffset (a : Nat) : Prop :=
  (0x014 ≤ a ∧ a < 0x020) ∨ (0x070 ≤ a ∧ a < 0x080) ∨ (0x098 ≤ a ∧ a < 0x0A0) ∨
    (0x0B8 ≤ a ∧ a < 0x0C0) ∨ (0x0D8 ≤ a ∧ a < 0x400)

/-- An offset the host may access (R104): a multiple of 4 in 0x000 to 0x7FC. -/
def wordOffset (a : Nat) : Prop := a % 4 = 0 ∧ a ≤ 0x7FC

/-! ### Blocks of DBUF and of the IV registers -/

/-- Block `j` of DBUF, for blocks of `bl` bytes. -/
def block (s : State) (bl j : Nat) : List Byte := dbufRead s (j * bl) bl

/-- The starting IV of a chained pass as R224 and R226 give it: XIV as the host left it, or IV, which is
zero under D40. -/
def startingIv (s : State) (x : IvSource) (bl : Nat) : List Byte :=
  match x with
  | .external => s.xiv.toList.take bl
  | .context => if s.chan = .d40 then zeroBytes bl else s.iv.toList.take bl

/-- The running IV before block `j` of a pass from `s` to `t` (spec/41_chain.md R222): at first the starting
IV, then the last output block (Send) or the last input block (Receive). -/
def runningIv (s t : State) (d : Dir) (x : IvSource) (bl j : Nat) : List Byte :=
  match j, d with
  | 0, _ => startingIv s x bl
  | j + 1, .send => block t bl j
  | j + 1, .receive => block s bl j

/-- A command with a key select that names `reg`, a legal ALG `a`, and a LEN its length checks accept. -/
structure ReadyToChain (s : State) (k : KeySel) (a : Alg) (reg : KeyBytes) : Prop where
  key : s.keyReg k = some reg
  alg : s.alg = some a
  room : s.len.toNat ≤ Config.bufBytes
  aligned : s.len.toNat % blockLen a = 0

/-- As `ReadyToChain`, for a command that takes any LEN up to BUF_BYTES. -/
structure ReadyToMac (s : State) (k : KeySel) (a : Alg) (reg : KeyBytes) : Prop where
  key : s.keyReg k = some reg
  alg : s.alg = some a
  room : s.len.toNat ≤ Config.bufBytes

/-! ### The standard CMAC (spec/42_cmac.md R266) -/

/-- The chaining of CMAC from the value `x` on, block by block, as RFC 4493 describes it: every block but the
last is XORed into the chain and enciphered; the last, if it is complete, is also XORed with `sk1`, and
otherwise (an empty message too) is filled up with 0x80 and zeros and XORed with `sk2`. `fuel` bounds the
number of blocks before the last. -/
def macChain (e : List Byte → List Byte) (bl : Nat) (sk1 sk2 : List Byte) :
    Nat → List Byte → List Byte → List Byte
  | 0, x, d => lastStep x d
  | fuel + 1, x, d =>
    if d.length ≤ bl then lastStep x d
    else macChain e bl sk1 sk2 fuel (e (xorBytes (d.take bl) x)) (d.drop bl)
where
  lastStep (x d : List Byte) : List Byte :=
    if d.length = bl then e (xorBytes (xorBytes d sk1) x)
    else e (xorBytes (xorBytes (d ++ [0x80] ++ zeroBytes (bl - d.length - 1)) sk2) x)

/-- The CMAC of the message `d` with the block function `e`, the subkeys derived from `e` of a zero block
and the chain started at zero. -/
def standardCmac (e : List Byte → List Byte) (bl : Nat) (d : List Byte) : List Byte :=
  macChain e bl (dbl (e (zeroBytes bl))) (dbl (dbl (e (zeroBytes bl)))) d.length (zeroBytes bl) d

end Sys2Proof.Machine
end

