-- ==== Sys2Proof/Certificates/Slice0/Obligations.lean ====
section
/-! DEFINITION. The statements for the provers. Each docstring names the rule of spec/ it comes from. -/

open Sys2Proof Sys2Proof.Machine

/-! ### Decoding and encoding (spec/30_encoding.md) -/

/-- R148: decoding the word of a well-formed command gives the command back, for every command and every
field value. -/
def Obligations.DecodeEncodeRoundTrip : Prop :=
  ∀ i : Instr, i.wf = true → decode (encode i) = .ok i

/-- R148, R150: a word that decodes is the word of the command it decodes to, and that command is well
formed: no bit of the word is dropped. -/
def Obligations.EncodeDecodeRoundTrip : Prop :=
  ∀ (w : Word) (i : Instr), decode w = .ok i → i.wf = true ∧ encode i = w

/-- R147, R148, R150: the opcode map accepts exactly the words that `Legal(w)` accepts. -/
def Obligations.DecoderAcceptsExactlyLegalWords : Prop :=
  ∀ w : Word, (∃ i, decode w = .ok i) ↔ legal w = true

/-- R147: writing an illegal word to CMD performs nothing and sets STATUS to ERR = 1, ERRCODE =
ILLEGAL_CMD; writing a legal one performs a command. -/
def Obligations.IllegalWordSetsOnlyStatus : Prop :=
  ∀ (s : State) (w : Word) (rest : List HostEvent), s.pending = commandEvent w :: rest →
    (legal w = false →
      ∃ t, step s = .next t ∧ t.status = 0x00000011 ∧ frame (s.setPending rest) t [.status]) ∧
    (legal w = true → ∃ i, decode w = .ok i ∧ step s = exec i (s.setPending rest))

/-- A few words of R148 and of spec/95_test_vectors.md, written out, decode to the commands they stand for. -/
def Obligations.SpecWordsDecode : Prop :=
  decode 0x00000000 = .ok .nop ∧
  decode 0x000000C1 = .ok (.chainx .static .send .encode .context) ∧
  decode 0x000001D1 = .ok (.chainx .senc .send .encode .external) ∧
  decode 0x00000052 = .ok (.chain .senc true) ∧
  decode 0x00000023 = .ok (.cmacsk .smac) ∧
  decode 0x00000024 = .ok (.cmac .smac) ∧
  decode 0x00000007 = .ok .crc32v ∧
  decode 0x0000000D = .ok .clrctx ∧
  decode 0x0000000E = .error .reservedOp ∧
  decode 0x00000031 = .error .reservedKeySel ∧
  decode 0x000000C2 = .error .reservedBits

/-! ### Steps and host accesses (spec/00_scope.md, spec/20_memory.md) -/

/-- spec/10_state.md R45, spec/30_encoding.md R148: when the host's next event writes to CMD a word that
decodes to `i`, the step is `exec` of `i` on the state with that event taken off the list. -/
def Obligations.StepRunsDecodedCommand : Prop :=
  ∀ (s : State) (w : Word) (i : Instr) (rest : List HostEvent),
    s.pending = commandEvent w :: rest → decode w = .ok i → step s = exec i (s.setPending rest)

/-- R24, spec/60_exceptions.md R345: the engine never acts on its own. The list of pending events is the
model's own (log entries 3 and 5). -/
def Obligations.IdleStepChangesNothing : Prop :=
  ∀ s : State, s.pending = [] → step s = .next s

/-- R106: a read returns the word at its offset and changes no state but what the host sees on the bus;
the same read again returns the same word. -/
def Obligations.ReadsHaveNoSideEffects : Prop :=
  ∀ (s : State) (a : Nat) (rest : List HostEvent), s.pending = rd a :: rest → wordOffset a →
    ∃ t, step s = .next t ∧ t.rdata = some (s.readWord a) ∧ frame (s.setPending rest) t [.rdata] ∧
      t.readWord a = s.readWord a

/-- R104, R105, spec/60_exceptions.md R335: a step faults with BusError of its offset when the next event is a host
access that is not 32 bits wide or not aligned, and, which is the MODEL'S CHOICE (log entry 6, DEDUCED: R101 calls what lies
outside the window "the platform's business"), when it is an aligned 32-bit access past 0x7FC; and only then. No
step refuses. -/
def Obligations.StepFaultsExactlyOnRefusedAccess : Prop :=
  ∀ s : State,
    (∀ a : Nat, step s = .fault (.busError a) ↔
      ∃ rest width, ¬ (width = 4 ∧ wordOffset a) ∧
        (s.pending = .read width a :: rest ∨ ∃ v, s.pending = .write width a v :: rest)) ∧
    ∀ r, step s ≠ .refused r

/-- R104, R105, spec/60_exceptions.md R333: a host program all of whose accesses are aligned 32-bit accesses
inside the window runs to its end: no step stops it. What the steps leave of the list of events is the MODEL'S
CHOICE: that the list holds what the host does next and each step takes one event (log entry 3), that a step past
the list's end changes nothing (log entry 5), and that the events after a reset still happen (log entry 10). -/
def Obligations.SafeProgramNeverStops : Prop :=
  ∀ (n : Nat) (s : State), hostSafe s →
    ∃ t : State, Host.Core.run Sys2Proof.core n s = .next t ∧ t.pending = s.pending.drop n ∧ hostSafe t

/-- R103, R107: after a write at any offset but CMD's, every word of the window reads as before but the one
written: CTRL keeps bits [2:0] and [5:4] of the value, LEN bits [15:0], a read/write byte-array register all
of it, and any other offset what it held. -/
def Obligations.HostWriteStoresOneWord : Prop :=
  ∀ (s : State) (a : Nat) (v : Word) (rest : List HostEvent),
    s.pending = wr a v :: rest → wordOffset a → a ≠ 0x004 →
    ∃ t, step s = .next t ∧
      (∀ b, wordOffset b → b ≠ a → t.readWord b = s.readWord b) ∧
      (a = 0x000 → t.readWord a = v &&& 0x00000037) ∧
      (a = 0x00C → t.readWord a = v &&& 0x0000FFFF) ∧
      (arrayOffset a → t.readWord a = v) ∧
      frame (s.setPending rest) t
        [.ctrl, .len, .iv, .xiv, .lastIv, .key, .skenc, .skmac, .dbuf]

/-- R102, R107 (d), (f): a write at a reserved offset or to STATUS, CRCR, SK1 or SK2 is ignored; a read at a
reserved offset, or of CMD (spec/10_state.md R45), returns 0. Neither is an error. -/
def Obligations.ReservedOffsetsIgnoreWritesAndReadZero : Prop :=
  ∀ (s : State) (a : Nat) (v : Word) (rest : List HostEvent), wordOffset a →
    (s.pending = wr a v :: rest → reservedOffset a ∨ readOnlyOffset a →
      step s = .next (s.setPending rest)) ∧
    (s.pending = rd a :: rest → reservedOffset a ∨ a = 0x004 →
      step s = .next ((s.setPending rest).setRdata 0))

/-- R103: byte `j` of the word at offset `4k` of a byte-array register is the register's byte `4k + j`. -/
def Obligations.ArrayWordsAreLittleEndian : Prop :=
  ∀ (s : State) (k j : Nat), j < 4 →
    (k < 4 → (s.readWord (0x020 + 4 * k)).extractLsb' (8 * j) 8 = byteAt s.iv (4 * k + j)) ∧
    (k < 4 → (s.readWord (0x030 + 4 * k)).extractLsb' (8 * j) 8 = byteAt s.xiv (4 * k + j)) ∧
    (k < 4 → (s.readWord (0x040 + 4 * k)).extractLsb' (8 * j) 8 = byteAt s.lastIv (4 * k + j)) ∧
    (k < 4 → (s.readWord (0x050 + 4 * k)).extractLsb' (8 * j) 8 = byteAt s.sk1 (4 * k + j)) ∧
    (k < 4 → (s.readWord (0x060 + 4 * k)).extractLsb' (8 * j) 8 = byteAt s.sk2 (4 * k + j)) ∧
    (k < 6 → (s.readWord (0x080 + 4 * k)).extractLsb' (8 * j) 8 = byteAt s.key (4 * k + j)) ∧
    (k < 6 → (s.readWord (0x0A0 + 4 * k)).extractLsb' (8 * j) 8 = byteAt s.skenc (4 * k + j)) ∧
    (k < 6 → (s.readWord (0x0C0 + 4 * k)).extractLsb' (8 * j) 8 = byteAt s.skmac (4 * k + j)) ∧
    (k < 256 → (s.readWord (0x400 + 4 * k)).extractLsb' (8 * j) 8 = dbufByte s (4 * k + j))

/-- spec/30_encoding.md R152: running `LDB DBUF+o, bs` leaves `bs` at `DBUF[o..]`, and every byte outside the
words it writes unchanged. The program is the model's list of host events (log entry 3). -/
def Obligations.LoadBytesProgramFillsBuffer : Prop :=
  ∀ (s : State) (o : Nat) (bs : List Byte), s.pending = ldb (0x400 + o) bs → o % 4 = 0 →
    o + bs.length ≤ 1024 →
    ∃ t : State, Host.Core.run Sys2Proof.core ((bs.length + 3) / 4) s = .next t ∧ t.pending = [] ∧
      (∀ j, j < bs.length → dbufByte t (o + j) = bs.getD j 0) ∧
      (∀ j, j < o ∨ o + 4 * ((bs.length + 3) / 4) ≤ j → dbufByte t j = dbufByte s j) ∧
      frame (s.setPending []) t [.dbuf]

/-! ### Reset and the invariant (spec/70_reset_and_hazards.md) -/

/-- R371, R380: after reset every word of the window below DBUF reads 0, and no byte of DBUF has a specified value.
(What the model's own fields hold is the model's choice: log entries 1 to 4.) -/
def Obligations.ResetRegistersReadZero : Prop :=
  (∀ a, wordOffset a → a < 0x400 → State.reset.readWord a = 0) ∧
  ∀ i, memLookup State.reset.dbuf i = none

/-- R370, R371: a reset event zeroes every register and leaves no byte of DBUF specified. That the event
keeps the host's further events and the fitted functions, and starts a new draw of the unspecified bytes, is
the model's choice (log entries 1, 2 and 10). -/
def Obligations.ResetEventClearsRegisters : Prop :=
  ∀ (s : State) (rest : List HostEvent), s.pending = .reset :: rest →
    ∃ t, step s = .next t ∧ (∀ a, wordOffset a → a < 0x400 → t.readWord a = 0) ∧
      (∀ i, memLookup t.dbuf i = none) ∧
      t.pending = rest ∧ t.fitted = s.fitted ∧ t.epoch = s.epoch + 1

/-- Every step keeps the invariant: the reserved bits of CTRL stay 0 (spec/10_state.md R42), STATUS stays one
of the values of spec/60_exceptions.md R330, and DBUF's cells stay canonical and inside the buffer
(spec/20_memory.md R114). For every state, reached or not. -/
def Obligations.StepKeepsInvariant : Prop :=
  ∀ s t : State, s.Inv → step s = .next t → t.Inv

/-- The invariant holds right after reset. -/
def Obligations.ResetHasInvariant : Prop := State.reset.Inv

/-- spec/10_state.md R42, R46, R50: where the invariant holds, the reserved bits of CTRL, STATUS and LEN read 0,
and ERRCODE is 0 exactly when ERR is. -/
def Obligations.ReservedBitsReadZero : Prop :=
  ∀ s : State, s.Inv →
    s.readWord 0x000 &&& 0xFFFFFFC8 = 0 ∧ s.readWord 0x008 &&& 0xFFFFFF0C = 0 ∧
    s.readWord 0x00C &&& 0xFFFF0000 = 0 ∧
    (s.errCode = 0 ↔ s.err = false) ∧ s.errCode.toNat ≤ 4

/-! ### Errors (spec/60_exceptions.md) -/

/-- R331, R333, R334: the first check that fails decides the code, and then nothing but STATUS changes;
a command that passes every check completes, and STATUS says so. STATUS is 0x2 only after a verify that
matched. -/
def Obligations.CheckOrderDecidesStatus : Prop :=
  ∀ (i : Instr) (s : State),
    (∀ e, firstError i s = some e →
      ∃ t, exec i s = .next t ∧ t.status = 0x1 ||| e.code <<< 4 ∧ frame s t [.status]) ∧
    (firstError i s = none →
      ∃ t, exec i s = .next t ∧
        t.status =
          (if (i = .crc32v ∧ dbufRead s s.len.toNat 4 =
                bytes32 (crc32Of s.fitted (dbufRead s 0 s.len.toNat))) ∨
              (i = .crc16v ∧ dbufRead s s.len.toNat 2 =
                bytes16 (crc16aOf s.fitted (dbufRead s 0 s.len.toNat)))
            then 0x2 else 0x0))

/-- R331, R333, R334: a word written to CMD is held against the checks in their order; the first that fails decides
the code, and then STATUS is written and nothing else; if none fails the command completes, and STATUS is 0x2 after
a verify (OP 7 or 10) that matched and 0 after any other. -/
def Obligations.CommandWordChecksInOrder : Prop :=
  ∀ (s : State) (w : Word) (rest : List HostEvent), s.pending = commandEvent w :: rest →
    (∀ e, checkWord w s = some e →
      ∃ t, step s = .next t ∧ t.status = 0x1 ||| e.code <<< 4 ∧ frame (s.setPending rest) t [.status]) ∧
    (checkWord w s = none →
      ∃ t, step s = .next t ∧
        t.status =
          (if (opField w = 7 ∧ dbufRead s s.len.toNat 4 =
                bytes32 (crc32Of s.fitted (dbufRead s 0 s.len.toNat))) ∨
              (opField w = 10 ∧ dbufRead s s.len.toNat 2 =
                bytes16 (crc16aOf s.fitted (dbufRead s 0 s.len.toNat)))
            then 0x2 else 0x0))

/-! ### CRC commands (spec/40_crc.md) -/

/-- R180: a CRC's bytes are little-endian. -/
def Obligations.CrcBytesAreLittleEndian : Prop :=
  (∀ (c : Word) (j : Nat), j < 4 → (bytes32 c).getD j 0 = c.extractLsb' (8 * j) 8) ∧
  (∀ (c : BitVec 16) (j : Nat), j < 2 → (bytes16 c).getD j 0 = c.extractLsb' (8 * j) 8) ∧
  (∀ c : Word, (bytes32 c).length = 4) ∧ (∀ c : BitVec 16, (bytes16 c).length = 2)

/-- R182, R185: CRC32 and CRC16 put the CRC of the data into CRCR and change nothing else but STATUS. -/
def Obligations.CrcComputeResult : Prop :=
  ∀ s : State, s.len.toNat ≤ 1024 →
    (∃ t, exec .crc32 s = .next t ∧ t.crcr = crc32Of s.fitted (dbufRead s 0 s.len.toNat) ∧
      t.status = 0 ∧ frame s t [.crcr, .status]) ∧
    (∃ t, exec .crc16 s = .next t ∧
      t.crcr = (crc16aOf s.fitted (dbufRead s 0 s.len.toNat)).setWidth 32 ∧
      t.status = 0 ∧ frame s t [.crcr, .status])

/-- R183, R186: CRC32A and CRC16A write the CRC's bytes right after the data, add its length to LEN and put it
into CRCR; every other byte of DBUF and every other register keeps its value, but STATUS. -/
def Obligations.CrcAppendResult : Prop :=
  ∀ s : State,
    (s.len.toNat + 4 ≤ 1024 →
      ∃ t, exec .crc32a s = .next t ∧ t.len.toNat = s.len.toNat + 4 ∧
        t.crcr = crc32Of s.fitted (dbufRead s 0 s.len.toNat) ∧
        dbufRead t s.len.toNat 4 = bytes32 (crc32Of s.fitted (dbufRead s 0 s.len.toNat)) ∧
        (∀ i, i < s.len.toNat ∨ s.len.toNat + 4 ≤ i → dbufByte t i = dbufByte s i) ∧
        t.status = 0 ∧ frame s t [.dbuf, .len, .crcr, .status]) ∧
    (s.len.toNat + 2 ≤ 1024 →
      ∃ t, exec .crc16a s = .next t ∧ t.len.toNat = s.len.toNat + 2 ∧
        t.crcr = (crc16aOf s.fitted (dbufRead s 0 s.len.toNat)).setWidth 32 ∧
        dbufRead t s.len.toNat 2 = bytes16 (crc16aOf s.fitted (dbufRead s 0 s.len.toNat)) ∧
        (∀ i, i < s.len.toNat ∨ s.len.toNat + 2 ≤ i → dbufByte t i = dbufByte s i) ∧
        t.status = 0 ∧ frame s t [.dbuf, .len, .crcr, .status])

/-- R184, R187, spec/60_exceptions.md R332: CRC32V and CRC16V put the CRC of the data into CRCR and set VOK if
and only if its bytes stand right after the data; a mismatch is no error; DBUF and LEN are not written. -/
def Obligations.CrcVerifyResult : Prop :=
  ∀ s : State,
    (s.len.toNat + 4 ≤ 1024 →
      ∃ t, exec .crc32v s = .next t ∧ t.crcr = crc32Of s.fitted (dbufRead s 0 s.len.toNat) ∧
        (t.vok = true ↔
          dbufRead s s.len.toNat 4 = bytes32 (crc32Of s.fitted (dbufRead s 0 s.len.toNat))) ∧
        t.status = (if t.vok = true then 0x2 else 0x0) ∧ t.err = false ∧ t.errCode = 0 ∧
        frame s t [.crcr, .status]) ∧
    (s.len.toNat + 2 ≤ 1024 →
      ∃ t, exec .crc16v s = .next t ∧
        t.crcr = (crc16aOf s.fitted (dbufRead s 0 s.len.toNat)).setWidth 32 ∧
        (t.vok = true ↔
          dbufRead s s.len.toNat 2 = bytes16 (crc16aOf s.fitted (dbufRead s 0 s.len.toNat))) ∧
        t.status = (if t.vok = true then 0x2 else 0x0) ∧ t.err = false ∧ t.errCode = 0 ∧
        frame s t [.crcr, .status])

/-- R188, third law: an append followed by the matching verify with LEN reset to the data's length gives
VOK = 1, as a host program of three accesses (the model's list of host events, log entry 3), whatever the CRC
functions are. -/
def Obligations.AppendThenVerifyMatches : Prop :=
  ∀ s : State,
    (s.len.toNat + 4 ≤ 1024 → s.pending = [command .crc32a, setlen s.len.toNat, command .crc32v] →
      ∃ t : State, Host.Core.run Sys2Proof.core 3 s = .next t ∧ t.vok = true ∧ t.err = false ∧
        t.crcr = crc32Of s.fitted (dbufRead s 0 s.len.toNat)) ∧
    (s.len.toNat + 2 ≤ 1024 → s.pending = [command .crc16a, setlen s.len.toNat, command .crc16v] →
      ∃ t : State, Host.Core.run Sys2Proof.core 3 s = .next t ∧ t.vok = true ∧ t.err = false ∧
        t.crcr = (crc16aOf s.fitted (dbufRead s 0 s.len.toNat)).setWidth 32)

/-- R188, first two laws, for the intended CRC functions: the CRC of data followed by its CRC is 0. -/
def Obligations.ResidueIsZero : Prop :=
  ∀ s : State, s.fitted = .intended →
    (s.len.toNat + 4 ≤ 1024 →
      ∃ t u, exec .crc32a s = .next t ∧ exec .crc32 t = .next u ∧ u.crcr = 0 ∧ u.status = 0) ∧
    (s.len.toNat + 2 ≤ 1024 →
      ∃ t u, exec .crc16a s = .next t ∧ exec .crc16 t = .next u ∧ u.crcr = 0 ∧ u.status = 0)

/-- R181: the CRC operations read LEN and DBUF alone, and write CRCR and STATUS and, the appends, DBUF and LEN: two
engines with the same LEN, DBUF and CRC functions get the same STATUS, CRCR (if the command is accepted), LEN and
DBUF, whatever their other registers hold. -/
def Obligations.CrcReadsOnlyLenAndData : Prop :=
  ∀ (i : Instr) (s s' : State),
    i ∈ [Instr.crc32, .crc32a, .crc32v, .crc16, .crc16a, .crc16v] →
    s'.len = s.len → s'.fitted = s.fitted → (∀ j, dbufByte s' j = dbufByte s j) →
    ∃ t t', exec i s = .next t ∧ exec i s' = .next t' ∧ t'.status = t.status ∧ t'.len = t.len ∧
      (∀ j, dbufByte t' j = dbufByte t j) ∧ (t.err = false → t'.crcr = t.crcr) ∧
      frame s t (if i = .crc32a ∨ i = .crc16a then [.crcr, .status, .dbuf, .len] else [.crcr, .status])

/-! ### Chained-cipher commands (spec/41_chain.md) -/

/-- R222, R223, R226: each output block of CHAINX is the primitive of the input block, XORed with the running IV
before the primitive (Send) or after it (Receive); the running IV is the last output block (Send) or the last
input block (Receive), and at first the chosen IV register, zero if it is IV under D40 (R224). -/
def Obligations.ChainxOutputBlocks : Prop :=
  ∀ (s : State) (k : KeySel) (d : Dir) (m : Mode) (x : IvSource) (a : Alg) (reg : KeyBytes),
    ReadyToChain s k a reg →
    ∃ t, exec (.chainx k d m x) s = .next t ∧ t.status = 0 ∧
      ∀ j, (j + 1) * blockLen a ≤ s.len.toNat →
        block t (blockLen a) j =
          match d with
          | .send =>
            prim s.fitted a (reg.toList.take (keyLen a)) m
              (xorBytes (block s (blockLen a) j) (runningIv s t d x (blockLen a) j))
          | .receive =>
            xorBytes (prim s.fitted a (reg.toList.take (keyLen a)) m (block s (blockLen a) j))
              (runningIv s t d x (blockLen a) j)

/-- R224, R225, R226: CHAINX writes the final running IV back into the first `bl` bytes of the chosen IV register;
the register's other bytes, and the other IV register, keep their values but for the D40 reset, which zeroes all
16 bytes of IV. -/
def Obligations.ChainxIvWriteBack : Prop :=
  ∀ (s : State) (k : KeySel) (d : Dir) (m : Mode) (x : IvSource) (a : Alg) (reg : KeyBytes),
    ReadyToChain s k a reg →
    ∃ t, exec (.chainx k d m x) s = .next t ∧
      (t.ivReg x).toList.take (blockLen a) =
        runningIv s t d x (blockLen a) (s.len.toNat / blockLen a) ∧
      (x = .context →
        t.iv.toList.drop (blockLen a) =
          (if s.chan = .d40 then zeroBytes (16 - blockLen a) else s.iv.toList.drop (blockLen a)) ∧
        t.xiv = s.xiv) ∧
      (x = .external →
        t.xiv.toList.drop (blockLen a) = s.xiv.toList.drop (blockLen a) ∧
        t.iv = if s.chan = .d40 then zeroBlock else s.iv)

/-- R226, spec/10_state.md R59: CHAINX changes `DBUF[0..<LEN]`, the IV registers and STATUS, and nothing else; every
byte it writes is specified afterwards (spec/70_reset_and_hazards.md R380). -/
def Obligations.ChainxFrame : Prop :=
  ∀ (s : State) (k : KeySel) (d : Dir) (m : Mode) (x : IvSource) (a : Alg) (reg : KeyBytes),
    ReadyToChain s k a reg →
    ∃ t, exec (.chainx k d m x) s = .next t ∧ frame s t [.dbuf, .iv, .xiv, .status] ∧
      (∀ i, s.len.toNat ≤ i → memLookup t.dbuf i = memLookup s.dbuf i ∧ dbufByte t i = dbufByte s i) ∧
      (∀ i, i < s.len.toNat → ∃ b, memLookup t.dbuf i = some b)

/-- R227, R228: CHAIN is CHAINX on the persistent IV, with direction Send for ENC = 1 and Receive for ENC = 0, and
mode Encode only for ENC = 1 outside D40. -/
def Obligations.ChainIsChainxResolved : Prop :=
  ∀ (s : State) (k : KeySel) (enc : Bool) (a : Alg) (reg : KeyBytes), ReadyToChain s k a reg →
    ∃ t, exec (.chain k enc) s = .next t ∧
      exec (.chainx k (if enc = true then .send else .receive)
        (if enc = true ∧ s.chan ≠ .d40 then .encode else .decode) .context) s = .next t

/-- R226, corner case: with LEN = 0 CHAINX writes the starting IV back unchanged and no byte of DBUF. -/
def Obligations.ChainxOfEmptyData : Prop :=
  ∀ (s : State) (k : KeySel) (d : Dir) (m : Mode) (x : IvSource) (a : Alg) (reg : KeyBytes),
    ReadyToChain s k a reg → s.len = 0 →
    ∃ t, exec (.chainx k d m x) s = .next t ∧ t.dbuf = s.dbuf ∧ t.status = 0 ∧
      t.xiv = s.xiv ∧ t.iv = if s.chan = .d40 then zeroBlock else s.iv

/-- R229, R222, R224, R228: under D40 the host's encode computes `c_i = Dec(key, p_i XOR c_(i-1))` and its decode
`p_i = Dec(key, c_i) XOR c_(i-1)`, both from a zero block, whatever IV held. -/
def Obligations.D40ChainUsesDecBothWays : Prop :=
  ∀ (s : State) (k : KeySel) (a : Alg) (reg : KeyBytes), ReadyToChain s k a reg → s.chan = .d40 →
    ∃ t u, exec (.chain k true) s = .next t ∧ exec (.chain k false) s = .next u ∧
      ∀ j, (j + 1) * blockLen a ≤ s.len.toNat →
        block t (blockLen a) j =
          decBlock s.fitted a (reg.toList.take (keyLen a))
            (xorBytes (block s (blockLen a) j)
              (if j = 0 then zeroBytes (blockLen a) else block t (blockLen a) (j - 1))) ∧
        block u (blockLen a) j =
          xorBytes (decBlock s.fitted a (reg.toList.take (keyLen a)) (block s (blockLen a) j))
            (if j = 0 then zeroBytes (blockLen a) else block s (blockLen a) (j - 1))

/-- R229: the peer that inverts a host's D40 send is a Receive with mode Encode, where Enc inverts Dec; and a host's
D40 receive inverts a peer's Send with mode Encode, where Dec inverts Enc. -/
def Obligations.D40PeerInvertsHost : Prop :=
  ∀ (s : State) (k : KeySel) (a : Alg) (reg : KeyBytes), ReadyToChain s k a reg → s.chan = .d40 →
    ((∀ b : List Byte, b.length = blockLen a →
        encBlock s.fitted a (reg.toList.take (keyLen a))
          (decBlock s.fitted a (reg.toList.take (keyLen a)) b) = b) →
      ∃ t u, exec (.chain k true) s = .next t ∧ exec (.chainx k .receive .encode .context) t = .next u ∧
        ∀ i, dbufByte u i = dbufByte s i) ∧
    ((∀ b : List Byte, b.length = blockLen a →
        decBlock s.fitted a (reg.toList.take (keyLen a))
          (encBlock s.fitted a (reg.toList.take (keyLen a)) b) = b) →
      ∃ t u, exec (.chainx k .send .encode .context) s = .next t ∧ exec (.chain k false) t = .next u ∧
        ∀ i, dbufByte u i = dbufByte s i)

/-- R231: under D40 no accepted cipher command depends on what IV held before it. -/
def Obligations.D40CommandsIgnoreIv : Prop :=
  ∀ (i : Instr) (s : State) (v : BlockReg), s.chan = .d40 → usesCipher i = true →
    firstError i s = none → ∃ t, exec i s = .next t ∧ exec i (s.setIv v) = .next t

/-- R230: where Dec inverts Enc under the selected key, CHAINX Send+Encode followed by CHAINX Receive+Decode from
the same starting IV restores DBUF, and both leave the same final IV; and where Enc inverts Dec, Send+Decode
followed by Receive+Encode does. On every channel kind and for either IV source. -/
def Obligations.ChainxRoundTrip : Prop :=
  ∀ (s : State) (k : KeySel) (x : IvSource) (a : Alg) (reg : KeyBytes), ReadyToChain s k a reg →
    ((∀ b : List Byte, b.length = blockLen a →
        decBlock s.fitted a (reg.toList.take (keyLen a))
          (encBlock s.fitted a (reg.toList.take (keyLen a)) b) = b) →
      ∃ t u, exec (.chainx k .send .encode x) s = .next t ∧
        exec (.chainx k .receive .decode x) (t.setIvReg x (s.ivReg x)) = .next u ∧
        (∀ i, dbufByte u i = dbufByte s i) ∧ u.ivReg x = t.ivReg x) ∧
    ((∀ b : List Byte, b.length = blockLen a →
        encBlock s.fitted a (reg.toList.take (keyLen a))
          (decBlock s.fitted a (reg.toList.take (keyLen a)) b) = b) →
      ∃ t u, exec (.chainx k .send .decode x) s = .next t ∧
        exec (.chainx k .receive .encode x) (t.setIvReg x (s.ivReg x)) = .next u ∧
        (∀ i, dbufByte u i = dbufByte s i) ∧ u.ivReg x = t.ivReg x)

/-- R233: outside D40, with the persistent IV, a command over `d1` followed by the same command over `d2`, from the
IV the first left, gives together the output and the final IV of one command over `d1 ‖ d2`. `s` holds
`d1 ‖ d2`; `s2` is any state in which the host has put `d2` and its length. -/
def Obligations.ChainingAcrossCommands : Prop :=
  ∀ (c : Instr) (s s2 t1 : State) (k : KeySel) (a : Alg) (reg : KeyBytes) (n1 n2 : Nat),
    ((∃ d m, c = .chainx k d m .context) ∨ ∃ enc, c = .chain k enc) →
    ReadyToChain s k a reg → s.chan ≠ .d40 → s.len.toNat = n1 + n2 → n1 % blockLen a = 0 →
    exec c (s.setLen (BitVec.ofNat 16 n1)) = .next t1 →
    s2.keyReg k = some reg → s2.ctrl = s.ctrl → s2.fitted = s.fitted → s2.iv = t1.iv →
    s2.len.toNat = n2 → (∀ j, j < n2 → dbufByte s2 j = dbufByte s (n1 + j)) →
    ∃ t t2, exec c s = .next t ∧ exec c s2 = .next t2 ∧
      (∀ j, j < n1 → dbufByte t j = dbufByte t1 j) ∧
      (∀ j, j < n2 → dbufByte t (n1 + j) = dbufByte t2 j) ∧ t.iv = t2.iv

/-- R232, spec/30_encoding.md R152: running `ECB1` with LEN = bl leaves `Enc(key, block)` in `DBUF[0..<bl]` and in
`XIV[0..<bl]`, and IV as it was unless CHAN is D40, which zeroes it. The program is the model's list of host events
(log entry 3). -/
def Obligations.Ecb1ProgramEnciphersOneBlock : Prop :=
  ∀ (s : State) (k : KeySel) (a : Alg) (reg : KeyBytes), s.pending = ecb1 k → ReadyToChain s k a reg →
    s.len.toNat = blockLen a →
    ∃ t : State, Host.Core.run Sys2Proof.core 5 s = .next t ∧ t.status = 0 ∧
      block t (blockLen a) 0 =
        encBlock s.fitted a (reg.toList.take (keyLen a)) (block s (blockLen a) 0) ∧
      t.xiv.toList.take (blockLen a) =
        encBlock s.fitted a (reg.toList.take (keyLen a)) (block s (blockLen a) 0) ∧
      t.iv = if s.chan = .d40 then zeroBlock else s.iv

/-! ### CMAC commands (spec/42_cmac.md) -/

/-- R260: `dbl` is a left shift by one with carry across the bytes, the first byte the most significant, and Rb
is XORed into the last byte if the top bit was 1. -/
def Obligations.DoublingShiftsAcrossBytes : Prop :=
  ∀ v : List Byte, v.length = 8 ∨ v.length = 16 →
    (dbl v).length = v.length ∧
    ∀ i, i < v.length →
      (dbl v).getD i 0 =
        (v.getD i 0 <<< 1 ||| v.getD (i + 1) 0 >>> 7) ^^^
          (if i + 1 = v.length ∧ (v.getD 0 0).getLsbD 7 = true then
            (if v.length = 8 then 0x1B else 0x87) else 0)

/-- R263, R269: the padded data is a whole number of blocks, at least one, and as few as hold the data; complete
non-empty data takes the `sk1` branch, any other the `sk2` branch after 0x80 and zeros. -/
def Obligations.PaddingFillsLastBlock : Prop :=
  ∀ (bl : Nat) (d sk1 sk2 : List Byte), bl = 8 ∨ bl = 16 → sk1.length = bl → sk2.length = bl →
    (d.length = 0 → padded bl d sk1 sk2 = xorBytes (0x80 :: zeroBytes (bl - 1)) sk2) ∧
    (d.length ≠ 0 → d.length % bl = 0 →
      padded bl d sk1 sk2 = d.take (d.length - bl) ++ xorBytes (d.drop (d.length - bl)) sk1) ∧
    (d.length % bl ≠ 0 →
      padded bl d sk1 sk2 =
        d.take (d.length / bl * bl) ++
          xorBytes (d.drop (d.length / bl * bl) ++ 0x80 :: zeroBytes (bl - 1 - d.length % bl)) sk2) ∧
    (padded bl d sk1 sk2).length = (if d.length = 0 then bl else (d.length + bl - 1) / bl * bl)

/-- R261, R262: CMACSK leaves `dbl(L)` and `dbl(dbl(L))` for `L = Enc(key, 0^bl)`, zero-filled to 16 bytes, in SK1
and SK2, on every channel kind; IV is untouched unless CHAN is D40, which zeroes it; LEN is not read. -/
def Obligations.CmacskResult : Prop :=
  ∀ (s : State) (k : KeySel) (a : Alg) (reg : KeyBytes), s.keyReg k = some reg → s.alg = some a →
    ∃ t, exec (.cmacsk k) s = .next t ∧ t.status = 0 ∧
      t.sk1.toList =
        dbl (encBlock s.fitted a (reg.toList.take (keyLen a)) (zeroBytes (blockLen a))) ++
          zeroBytes (16 - blockLen a) ∧
      t.sk2.toList =
        dbl (dbl (encBlock s.fitted a (reg.toList.take (keyLen a)) (zeroBytes (blockLen a)))) ++
          zeroBytes (16 - blockLen a) ∧
      t.iv = (if s.chan = .d40 then zeroBlock else s.iv) ∧
      frame s t [.sk1, .sk2, .iv, .status]

/-- R264, R265, R268: CMAC leaves in `IV[0..<bl]` the chain of the padded data from the persistent IV, or from zero
under D40, with Enc, or with Dec under D40, and the subkeys of `Enc(key, 0^bl)` in SK1 and SK2. IV's other bytes
keep their values, or are zero under D40. DBUF, LEN and XIV are untouched. -/
def Obligations.CmacResult : Prop :=
  ∀ (s : State) (k : KeySel) (a : Alg) (reg : KeyBytes), ReadyToMac s k a reg →
    ∃ t, exec (.cmac k) s = .next t ∧ t.status = 0 ∧
      t.iv.toList.take (blockLen a) =
        macChain
          (prim s.fitted a (reg.toList.take (keyLen a)) (if s.chan = .d40 then .decode else .encode))
          (blockLen a)
          (dbl (encBlock s.fitted a (reg.toList.take (keyLen a)) (zeroBytes (blockLen a))))
          (dbl (dbl (encBlock s.fitted a (reg.toList.take (keyLen a)) (zeroBytes (blockLen a)))))
          s.len.toNat (startingIv s .context (blockLen a)) (dbufRead s 0 s.len.toNat) ∧
      t.iv.toList.drop (blockLen a) =
        (if s.chan = .d40 then zeroBytes (16 - blockLen a) else s.iv.toList.drop (blockLen a)) ∧
      t.sk1.toList =
        dbl (encBlock s.fitted a (reg.toList.take (keyLen a)) (zeroBytes (blockLen a))) ++
          zeroBytes (16 - blockLen a) ∧
      t.sk2.toList =
        dbl (dbl (encBlock s.fitted a (reg.toList.take (keyLen a)) (zeroBytes (blockLen a)))) ++
          zeroBytes (16 - blockLen a) ∧
      frame s t [.iv, .sk1, .sk2, .status]

/-- R266: outside D40, from a zero IV, CMAC leaves the standard CMAC of the data under Enc in `IV[0..<bl]`. -/
def Obligations.CmacIsStandardCmac : Prop :=
  ∀ (s : State) (k : KeySel) (a : Alg) (reg : KeyBytes), ReadyToMac s k a reg → s.chan ≠ .d40 →
    s.iv.toList.take (blockLen a) = zeroBytes (blockLen a) →
    ∃ t, exec (.cmac k) s = .next t ∧
      t.iv.toList.take (blockLen a) =
        standardCmac (encBlock s.fitted a (reg.toList.take (keyLen a))) (blockLen a)
          (dbufRead s 0 s.len.toNat)

/-- R266, property 2: with `IV[0..<bl]` zero before the command, outside D40, the MAC depends only on the selected
key's first `kl` bytes, ALG, LEN and the data (and on Enc). -/
def Obligations.CmacDependsOnlyOnKeyAndData : Prop :=
  ∀ (s s' : State) (k k' : KeySel) (a : Alg) (reg reg' : KeyBytes),
    ReadyToMac s k a reg → ReadyToMac s' k' a reg' → s.chan ≠ .d40 → s'.chan ≠ .d40 →
    s'.fitted = s.fitted → reg'.toList.take (keyLen a) = reg.toList.take (keyLen a) →
    s.iv.toList.take (blockLen a) = zeroBytes (blockLen a) →
    s'.iv.toList.take (blockLen a) = zeroBytes (blockLen a) →
    s'.len = s.len → (∀ j, j < s.len.toNat → dbufByte s' j = dbufByte s j) →
    ∃ t t', exec (.cmac k) s = .next t ∧ exec (.cmac k') s' = .next t' ∧
      t'.iv.toList.take (blockLen a) = t.iv.toList.take (blockLen a)

/-! ### Context commands (spec/43_context.md) -/

/-- R300, R301: NOP rewrites STATUS alone; CLRIV zeroes all 16 bytes of IV. -/
def Obligations.NopAndClrivResult : Prop :=
  ∀ s : State,
    (∃ t, exec .nop s = .next t ∧ t.status = 0 ∧ frame s t [.status]) ∧
    (∃ t, exec .clriv s = .next t ∧ t.iv = zeroBlock ∧ t.status = 0 ∧ frame s t [.iv, .status])

/-- R302: CLRSESS sets CHAN to None, keeps ALG, and zeroes IV, LAST_IV, SKENC, SKMAC, SK1 and SK2; nothing else
changes but STATUS. -/
def Obligations.ClrsessResult : Prop :=
  ∀ s : State,
    ∃ t, exec .clrsess s = .next t ∧ t.ctrl = s.ctrl &&& ~~~(0x30 : Word) ∧ t.chan = .none ∧ t.alg = s.alg ∧
      t.iv = zeroBlock ∧ t.lastIv = zeroBlock ∧ t.skenc = zeroKey ∧ t.skmac = zeroKey ∧
      t.sk1 = zeroBlock ∧ t.sk2 = zeroBlock ∧ t.status = 0 ∧
      frame s t [.ctrl, .iv, .lastIv, .skenc, .skmac, .sk1, .sk2, .status]

/-- R303: CLRCTX does what CLRSESS does and sets ALG to DES and KEY to zero; where CTRL's reserved bits are 0, CTRL
is 0 afterwards. XIV, LEN, CRCR and DBUF keep their values. -/
def Obligations.ClrctxResult : Prop :=
  ∀ s : State,
    ∃ t, exec .clrctx s = .next t ∧ t.ctrl = s.ctrl &&& ~~~(0x37 : Word) ∧ (s.Inv → t.ctrl = 0) ∧
      t.chan = .none ∧ t.alg = some .des ∧
      t.iv = zeroBlock ∧ t.lastIv = zeroBlock ∧ t.key = zeroKey ∧ t.skenc = zeroKey ∧ t.skmac = zeroKey ∧
      t.sk1 = zeroBlock ∧ t.sk2 = zeroBlock ∧ t.status = 0 ∧
      frame s t [.ctrl, .iv, .lastIv, .key, .skenc, .skmac, .sk1, .sk2, .status]

/-! ### Rules over all commands -/

/-- Which commands can write which register; a register outside a command's list keeps its value. CTRL: the clears of
spec/43_context.md R302 and R303. LEN: spec/10_state.md R50. CRCR: R51. IV: R52, with spec/41_chain.md R224, R226, R227,
spec/42_cmac.md R262, R264 and spec/43_context.md R301, R302, R303. XIV, LAST_IV, SK1, SK2 and the keys: spec/10_state.md
R53 to R58, spec/70_reset_and_hazards.md R378. That no command writes the model's own fields epoch, fitted, pending and
rdata (the draw of unspecified bytes, what the engine is built with, what the host does next, what it last read) is the
model's choice: log entries 1, 2, 3 and 4. -/
def Obligations.RegistersWrittenOnlyByTheirCommands : Prop :=
  ∀ (i : Instr) (s t : State), exec i s = .next t →
    (t.ctrl ≠ s.ctrl → i = .clrsess ∨ i = .clrctx) ∧
    (t.len ≠ s.len → i = .crc32a ∨ i = .crc16a) ∧
    (t.crcr ≠ s.crcr → i ∈ [Instr.crc32, .crc32a, .crc32v, .crc16, .crc16a, .crc16v]) ∧
    (t.iv ≠ s.iv → usesCipher i = true ∨ i = .clriv ∨ i = .clrsess ∨ i = .clrctx) ∧
    (t.xiv ≠ s.xiv → ∃ k d m, i = .chainx k d m .external) ∧
    (t.lastIv ≠ s.lastIv → i = .clrsess ∨ i = .clrctx) ∧
    (t.sk1 ≠ s.sk1 → (∃ k, i = .cmacsk k ∨ i = .cmac k) ∨ i = .clrsess ∨ i = .clrctx) ∧
    (t.sk2 ≠ s.sk2 → (∃ k, i = .cmacsk k ∨ i = .cmac k) ∨ i = .clrsess ∨ i = .clrctx) ∧
    (t.key ≠ s.key → i = .clrctx) ∧
    (t.skenc ≠ s.skenc → i = .clrsess ∨ i = .clrctx) ∧
    (t.skmac ≠ s.skmac → i = .clrsess ∨ i = .clrctx) ∧
    t.epoch = s.epoch ∧ t.fitted = s.fitted ∧ t.pending = s.pending ∧ t.rdata = s.rdata

/-- spec/10_state.md R59, spec/20_memory.md R114: a byte of DBUF changes only if it lies in `DBUF[0..<LEN]` and the
command is CHAINX or CHAIN, or it is one of the 4 or 2 bytes after the data and the command is CRC32A or CRC16A;
and it lies inside the buffer. -/
def Obligations.DbufWrittenOnlyWhereAllowed : Prop :=
  ∀ (i : Instr) (s t : State) (j : Nat), exec i s = .next t → dbufByte t j ≠ dbufByte s j →
    j < 1024 ∧
    ((j < s.len.toNat ∧ needsAligned i = true) ∨
      (s.len.toNat ≤ j ∧ j < s.len.toNat + 4 ∧ i = .crc32a) ∨
      (s.len.toNat ≤ j ∧ j < s.len.toNat + 2 ∧ i = .crc16a))

/-- spec/10_state.md R44: None, EV1 and EV2 behave identically in every operation: two engines whose CTRL differs
only in CHAN, neither of them D40, end every command in states that differ at most in CHAN. -/
def Obligations.ChannelKindsButD40Alike : Prop :=
  ∀ (i : Instr) (s : State) (c : Word), s.chan ≠ .d40 → (s.setCtrl c).chan ≠ .d40 →
    c &&& ~~~(0x30 : Word) = s.ctrl &&& ~~~(0x30 : Word) →
    ∃ t t', exec i s = .next t ∧ exec i (s.setCtrl c) = .next t' ∧
      t'.setCtrl 0 = t.setCtrl 0 ∧ t'.ctrl &&& ~~~(0x30 : Word) = t.ctrl &&& ~~~(0x30 : Word)

/-- spec/10_state.md R56, R57, R58, spec/41_chain.md R220: bytes `[kl..<24]` of the key registers are never read: two
engines that differ only there end every command in states that differ at most in the key registers. -/
def Obligations.KeyTailsAreNeverRead : Prop :=
  ∀ (i : Instr) (s : State) (a : Alg) (key' skenc' skmac' : KeyBytes), s.alg = some a →
    key'.toList.take (keyLen a) = s.key.toList.take (keyLen a) →
    skenc'.toList.take (keyLen a) = s.skenc.toList.take (keyLen a) →
    skmac'.toList.take (keyLen a) = s.skmac.toList.take (keyLen a) →
    ∃ t t', exec i s = .next t ∧
      exec i (((s.setKey key').setSkenc skenc').setSkmac skmac') = .next t' ∧
      ((t'.setKey zeroKey).setSkenc zeroKey).setSkmac zeroKey =
        ((t.setKey zeroKey).setSkenc zeroKey).setSkmac zeroKey

/-! ### The intended instance (spec/00_scope.md R13) -/

/-- R13: for the intended DES, 2K3DES, 3K3DES and AES-128, `Dec(alg, k, Enc(alg, k, b)) = b` for every alg, k
and b. -/
def Obligations.IntendedDecInvertsEnc : Prop :=
  ∀ (a : Alg) (key blk : List Byte), key.length = keyLen a → blk.length = blockLen a →
    intendedDec a key (intendedEnc a key blk) = blk
end

