-- ==== Sys2Proof/Laws/Bytes.lean ====
section
/-! SUPPORT. Byte strings: lengths, exclusive-or, registers written in part, and the two byte orders. -/

namespace Sys2Proof.Machine

/-! ### Exclusive-or -/

@[simp] theorem xorBytes_length (a b : List Byte) : (xorBytes a b).length = min a.length b.length := by
  simp [xorBytes]

@[simp] theorem zeroBytes_length (n : Nat) : (zeroBytes n).length = n := by
  simp [zeroBytes]

theorem xorBytes_comm (a b : List Byte) : xorBytes a b = xorBytes b a := by
  induction a generalizing b with
  | nil => cases b <;> rfl
  | cons x a ih =>
    cases b with
    | nil => rfl
    | cons y b => simp only [xorBytes, List.zipWith_cons_cons, BitVec.xor_comm x y]; congr 1; exact ih b

theorem xorBytes_assoc (a b c : List Byte) : xorBytes (xorBytes a b) c = xorBytes a (xorBytes b c) := by
  induction a generalizing b c with
  | nil => cases b <;> cases c <;> rfl
  | cons x a ih =>
    cases b with
    | nil => cases c <;> rfl
    | cons y b =>
      cases c with
      | nil => rfl
      | cons z c =>
        simp only [xorBytes, List.zipWith_cons_cons, BitVec.xor_assoc]; congr 1; exact ih b c

/-- XORing twice with the same string gives the string back. -/
theorem xorBytes_cancel (a b : List Byte) (h : a.length ≤ b.length) : xorBytes (xorBytes a b) b = a := by
  induction a generalizing b with
  | nil => rfl
  | cons x a ih =>
    cases b with
    | nil => simp at h
    | cons y b =>
      simp only [xorBytes, List.zipWith_cons_cons, BitVec.xor_assoc, BitVec.xor_self, BitVec.xor_zero]
      congr 1
      exact ih b (by simpa using h)

theorem xorBytes_zeroBytes (a : List Byte) (n : Nat) (h : a.length ≤ n) : xorBytes a (zeroBytes n) = a := by
  induction a generalizing n with
  | nil => simp [xorBytes]
  | cons x a ih =>
    cases n with
    | zero => simp at h
    | succ n =>
      simp only [zeroBytes, List.replicate_succ, xorBytes, List.zipWith_cons_cons]
      exact congrArg₂ List.cons (BitVec.xor_zero) (ih n (by simpa using h))

theorem xorBytes_append (a b c d : List Byte) (h : a.length = c.length) :
    xorBytes (a ++ b) (c ++ d) = xorBytes a c ++ xorBytes b d :=
  List.zipWith_append h

/-! ### Registers -/

@[simp] theorem setPrefix_toList_length {n : Nat} (a : Vector Byte n) (bs : List Byte) :
    (setPrefix a bs).toList.length = n := by
  simp

theorem setPrefix_getElem {n : Nat} (a : Vector Byte n) (bs : List Byte) (i : Nat) (h : i < n) :
    (setPrefix a bs)[i] = bs.getD i a[i] := by
  simp [setPrefix]

/-- A register written in part: the new bytes, then the register's own. -/
theorem setPrefix_toList {n : Nat} (a : Vector Byte n) (bs : List Byte) (h : bs.length ≤ n) :
    (setPrefix a bs).toList = bs ++ a.toList.drop bs.length := by
  apply List.ext_getElem
  · simp; omega
  · intro i h1 h2
    rw [Vector.getElem_toList, setPrefix_getElem _ _ _ (by simpa using h1), List.getElem_append]
    split
    · rename_i hi
      simp [List.getD, hi]
    · rename_i hi
      simp [List.getD, hi]
      congr 1
      omega

theorem setPrefix_take {n : Nat} (a : Vector Byte n) (bs : List Byte) (h : bs.length ≤ n) :
    (setPrefix a bs).toList.take bs.length = bs := by
  rw [setPrefix_toList a bs h]; simp

/-- Writing a register's own first bytes back changes nothing. -/
theorem setPrefix_self {n : Nat} (a : Vector Byte n) (k : Nat) : setPrefix a (a.toList.take k) = a := by
  apply Vector.ext
  intro i hi
  rw [setPrefix_getElem _ _ _ hi]
  by_cases h : i < k
  · simp [List.getD, h, hi]
  · simp [List.getD, h]

/-- Only the last of two writes of the same bytes counts. -/
theorem setPrefix_setPrefix {n : Nat} (a : Vector Byte n) (bs cs : List Byte) (h : bs.length ≤ cs.length) :
    setPrefix (setPrefix a bs) cs = setPrefix a cs := by
  apply Vector.ext
  intro i hi
  rw [setPrefix_getElem _ _ _ hi, setPrefix_getElem _ _ _ hi, setPrefix_getElem _ _ _ hi]
  by_cases h1 : i < cs.length
  · simp [List.getD, h1]
  · simp [List.getD, h1, show ¬ i < bs.length by omega]

/-! ### Words and bytes -/

@[simp] theorem bytes32_length (c : Word) : (bytes32 c).length = 4 := rfl

@[simp] theorem bytes16_length (c : BitVec 16) : (bytes16 c).length = 2 := rfl

/-- The word of a word's bytes is the word (little-endian). -/
theorem wordOfBytes_bytes32 (v : Word) :
    wordOfBytes ((bytes32 v).getD 0 0) ((bytes32 v).getD 1 0) ((bytes32 v).getD 2 0) ((bytes32 v).getD 3 0)
      = v := by
  apply BitVec.eq_of_getLsbD_eq
  intro i hi
  simp only [wordOfBytes, bytes32, List.getD_cons_zero, List.getD_cons_succ, BitVec.getLsbD_append,
    BitVec.getLsbD_extractLsb']
  interval_cases i <;> simp

/-- The bytes of a word of bytes are the bytes. -/
theorem bytes32_wordOfBytes (b0 b1 b2 b3 : Byte) : bytes32 (wordOfBytes b0 b1 b2 b3) = [b0, b1, b2, b3] := by
  simp only [bytes32, wordOfBytes, List.cons.injEq, and_true]
  refine ⟨?_, ?_, ?_, ?_⟩ <;>
  · apply BitVec.eq_of_getLsbD_eq
    intro i hi
    simp only [BitVec.getLsbD_append, BitVec.getLsbD_extractLsb']
    interval_cases i <;> simp

/-! ### Big-endian integers -/

@[simp] theorem beBytes_length (n v : Nat) : (beBytes n v).length = n := by
  simp [beBytes]

theorem beNat_foldl (a : List Byte) (acc : Nat) :
    a.foldl (fun acc b => acc * 256 + b.toNat) acc = acc * 256 ^ a.length + beNat a := by
  induction a generalizing acc with
  | nil => simp [beNat]
  | cons b a ih =>
    simp only [List.foldl_cons, beNat]
    rw [ih, ih (0 * 256 + b.toNat)]
    simp only [List.length_cons, pow_succ]
    ring

theorem beNat_cons (b : Byte) (a : List Byte) : beNat (b :: a) = b.toNat * 256 ^ a.length + beNat a := by
  unfold beNat
  rw [List.foldl_cons, beNat_foldl, beNat]
  simp

theorem beNat_lt (a : List Byte) : beNat a < 256 ^ a.length := by
  induction a with
  | nil => simp [beNat]
  | cons b a ih =>
    rw [beNat_cons, List.length_cons, pow_succ]
    have : b.toNat < 256 := b.isLt
    nlinarith

/-- The big-endian bytes of a byte string's integer are the byte string. -/
theorem beBytes_beNat (a : List Byte) : beBytes a.length (beNat a) = a := by
  induction a with
  | nil => rfl
  | cons b a ih =>
    have hlt := beNat_lt a
    rw [beNat_cons]
    simp only [beBytes, List.length_cons, List.range_succ_eq_map, List.map_cons, List.map_map]
    congr 1
    · simp only [Nat.add_sub_cancel, Nat.sub_zero]
      rw [Nat.mul_comm, Nat.mul_add_div (Nat.pos_of_ne_zero (by positivity)), Nat.div_eq_of_lt hlt]
      simp
    · conv_rhs => rw [← ih]
      apply List.map_congr_left
      intro i hi
      have hi' : i < a.length := List.mem_range.1 hi
      simp only [Function.comp]
      have e1 : a.length + 1 - 1 - Nat.succ i = a.length - 1 - i := by omega
      rw [e1]
      have e2 : a.length = (a.length - 1 - i) + (i + 1) := by omega
      apply BitVec.eq_of_toNat_eq
      simp only [BitVec.toNat_ofNat]
      have e3 : b.toNat * 256 ^ a.length =
          256 ^ (a.length - 1 - i) * (b.toNat * 256 ^ i * 256) := by
        conv_lhs => rw [e2, pow_add, pow_succ]
        ring
      rw [e3, Nat.mul_add_div (Nat.pos_of_ne_zero (by positivity))]
      omega

end Sys2Proof.Machine
end

