-- ==== Sys2Proof/Laws/State.lean ====
section
/-! SUPPORT. What each update of State leaves in each field, one simp lemma per update and field, and in the
functions that read State. -/

namespace Sys2Proof.Machine

/-! ### `State.setCtrl` -/

@[simp] theorem State.setCtrl_ctrl (s : State) (v : Word) : (s.setCtrl v).ctrl = v := rfl
@[simp] theorem State.setCtrl_status (s : State) (v : Word) : (s.setCtrl v).status = s.status := rfl
@[simp] theorem State.setCtrl_len (s : State) (v : Word) : (s.setCtrl v).len = s.len := rfl
@[simp] theorem State.setCtrl_crcr (s : State) (v : Word) : (s.setCtrl v).crcr = s.crcr := rfl
@[simp] theorem State.setCtrl_iv (s : State) (v : Word) : (s.setCtrl v).iv = s.iv := rfl
@[simp] theorem State.setCtrl_xiv (s : State) (v : Word) : (s.setCtrl v).xiv = s.xiv := rfl
@[simp] theorem State.setCtrl_lastIv (s : State) (v : Word) : (s.setCtrl v).lastIv = s.lastIv := rfl
@[simp] theorem State.setCtrl_sk1 (s : State) (v : Word) : (s.setCtrl v).sk1 = s.sk1 := rfl
@[simp] theorem State.setCtrl_sk2 (s : State) (v : Word) : (s.setCtrl v).sk2 = s.sk2 := rfl
@[simp] theorem State.setCtrl_key (s : State) (v : Word) : (s.setCtrl v).key = s.key := rfl
@[simp] theorem State.setCtrl_skenc (s : State) (v : Word) : (s.setCtrl v).skenc = s.skenc := rfl
@[simp] theorem State.setCtrl_skmac (s : State) (v : Word) : (s.setCtrl v).skmac = s.skmac := rfl
@[simp] theorem State.setCtrl_dbuf (s : State) (v : Word) : (s.setCtrl v).dbuf = s.dbuf := rfl
@[simp] theorem State.setCtrl_epoch (s : State) (v : Word) : (s.setCtrl v).epoch = s.epoch := rfl
@[simp] theorem State.setCtrl_fitted (s : State) (v : Word) : (s.setCtrl v).fitted = s.fitted := rfl
@[simp] theorem State.setCtrl_pending (s : State) (v : Word) : (s.setCtrl v).pending = s.pending := rfl
@[simp] theorem State.setCtrl_rdata (s : State) (v : Word) : (s.setCtrl v).rdata = s.rdata := rfl

/-! ### `State.setStatus` -/

@[simp] theorem State.setStatus_ctrl (s : State) (v : Word) : (s.setStatus v).ctrl = s.ctrl := rfl
@[simp] theorem State.setStatus_status (s : State) (v : Word) : (s.setStatus v).status = v := rfl
@[simp] theorem State.setStatus_len (s : State) (v : Word) : (s.setStatus v).len = s.len := rfl
@[simp] theorem State.setStatus_crcr (s : State) (v : Word) : (s.setStatus v).crcr = s.crcr := rfl
@[simp] theorem State.setStatus_iv (s : State) (v : Word) : (s.setStatus v).iv = s.iv := rfl
@[simp] theorem State.setStatus_xiv (s : State) (v : Word) : (s.setStatus v).xiv = s.xiv := rfl
@[simp] theorem State.setStatus_lastIv (s : State) (v : Word) : (s.setStatus v).lastIv = s.lastIv := rfl
@[simp] theorem State.setStatus_sk1 (s : State) (v : Word) : (s.setStatus v).sk1 = s.sk1 := rfl
@[simp] theorem State.setStatus_sk2 (s : State) (v : Word) : (s.setStatus v).sk2 = s.sk2 := rfl
@[simp] theorem State.setStatus_key (s : State) (v : Word) : (s.setStatus v).key = s.key := rfl
@[simp] theorem State.setStatus_skenc (s : State) (v : Word) : (s.setStatus v).skenc = s.skenc := rfl
@[simp] theorem State.setStatus_skmac (s : State) (v : Word) : (s.setStatus v).skmac = s.skmac := rfl
@[simp] theorem State.setStatus_dbuf (s : State) (v : Word) : (s.setStatus v).dbuf = s.dbuf := rfl
@[simp] theorem State.setStatus_epoch (s : State) (v : Word) : (s.setStatus v).epoch = s.epoch := rfl
@[simp] theorem State.setStatus_fitted (s : State) (v : Word) : (s.setStatus v).fitted = s.fitted := rfl
@[simp] theorem State.setStatus_pending (s : State) (v : Word) : (s.setStatus v).pending = s.pending := rfl
@[simp] theorem State.setStatus_rdata (s : State) (v : Word) : (s.setStatus v).rdata = s.rdata := rfl

/-! ### `State.setLen` -/

@[simp] theorem State.setLen_ctrl (s : State) (v : BitVec 16) : (s.setLen v).ctrl = s.ctrl := rfl
@[simp] theorem State.setLen_status (s : State) (v : BitVec 16) : (s.setLen v).status = s.status := rfl
@[simp] theorem State.setLen_len (s : State) (v : BitVec 16) : (s.setLen v).len = v := rfl
@[simp] theorem State.setLen_crcr (s : State) (v : BitVec 16) : (s.setLen v).crcr = s.crcr := rfl
@[simp] theorem State.setLen_iv (s : State) (v : BitVec 16) : (s.setLen v).iv = s.iv := rfl
@[simp] theorem State.setLen_xiv (s : State) (v : BitVec 16) : (s.setLen v).xiv = s.xiv := rfl
@[simp] theorem State.setLen_lastIv (s : State) (v : BitVec 16) : (s.setLen v).lastIv = s.lastIv := rfl
@[simp] theorem State.setLen_sk1 (s : State) (v : BitVec 16) : (s.setLen v).sk1 = s.sk1 := rfl
@[simp] theorem State.setLen_sk2 (s : State) (v : BitVec 16) : (s.setLen v).sk2 = s.sk2 := rfl
@[simp] theorem State.setLen_key (s : State) (v : BitVec 16) : (s.setLen v).key = s.key := rfl
@[simp] theorem State.setLen_skenc (s : State) (v : BitVec 16) : (s.setLen v).skenc = s.skenc := rfl
@[simp] theorem State.setLen_skmac (s : State) (v : BitVec 16) : (s.setLen v).skmac = s.skmac := rfl
@[simp] theorem State.setLen_dbuf (s : State) (v : BitVec 16) : (s.setLen v).dbuf = s.dbuf := rfl
@[simp] theorem State.setLen_epoch (s : State) (v : BitVec 16) : (s.setLen v).epoch = s.epoch := rfl
@[simp] theorem State.setLen_fitted (s : State) (v : BitVec 16) : (s.setLen v).fitted = s.fitted := rfl
@[simp] theorem State.setLen_pending (s : State) (v : BitVec 16) : (s.setLen v).pending = s.pending := rfl
@[simp] theorem State.setLen_rdata (s : State) (v : BitVec 16) : (s.setLen v).rdata = s.rdata := rfl

/-! ### `State.setCrcr` -/

@[simp] theorem State.setCrcr_ctrl (s : State) (v : Word) : (s.setCrcr v).ctrl = s.ctrl := rfl
@[simp] theorem State.setCrcr_status (s : State) (v : Word) : (s.setCrcr v).status = s.status := rfl
@[simp] theorem State.setCrcr_len (s : State) (v : Word) : (s.setCrcr v).len = s.len := rfl
@[simp] theorem State.setCrcr_crcr (s : State) (v : Word) : (s.setCrcr v).crcr = v := rfl
@[simp] theorem State.setCrcr_iv (s : State) (v : Word) : (s.setCrcr v).iv = s.iv := rfl
@[simp] theorem State.setCrcr_xiv (s : State) (v : Word) : (s.setCrcr v).xiv = s.xiv := rfl
@[simp] theorem State.setCrcr_lastIv (s : State) (v : Word) : (s.setCrcr v).lastIv = s.lastIv := rfl
@[simp] theorem State.setCrcr_sk1 (s : State) (v : Word) : (s.setCrcr v).sk1 = s.sk1 := rfl
@[simp] theorem State.setCrcr_sk2 (s : State) (v : Word) : (s.setCrcr v).sk2 = s.sk2 := rfl
@[simp] theorem State.setCrcr_key (s : State) (v : Word) : (s.setCrcr v).key = s.key := rfl
@[simp] theorem State.setCrcr_skenc (s : State) (v : Word) : (s.setCrcr v).skenc = s.skenc := rfl
@[simp] theorem State.setCrcr_skmac (s : State) (v : Word) : (s.setCrcr v).skmac = s.skmac := rfl
@[simp] theorem State.setCrcr_dbuf (s : State) (v : Word) : (s.setCrcr v).dbuf = s.dbuf := rfl
@[simp] theorem State.setCrcr_epoch (s : State) (v : Word) : (s.setCrcr v).epoch = s.epoch := rfl
@[simp] theorem State.setCrcr_fitted (s : State) (v : Word) : (s.setCrcr v).fitted = s.fitted := rfl
@[simp] theorem State.setCrcr_pending (s : State) (v : Word) : (s.setCrcr v).pending = s.pending := rfl
@[simp] theorem State.setCrcr_rdata (s : State) (v : Word) : (s.setCrcr v).rdata = s.rdata := rfl

/-! ### `State.setIv` -/

@[simp] theorem State.setIv_ctrl (s : State) (v : BlockReg) : (s.setIv v).ctrl = s.ctrl := rfl
@[simp] theorem State.setIv_status (s : State) (v : BlockReg) : (s.setIv v).status = s.status := rfl
@[simp] theorem State.setIv_len (s : State) (v : BlockReg) : (s.setIv v).len = s.len := rfl
@[simp] theorem State.setIv_crcr (s : State) (v : BlockReg) : (s.setIv v).crcr = s.crcr := rfl
@[simp] theorem State.setIv_iv (s : State) (v : BlockReg) : (s.setIv v).iv = v := rfl
@[simp] theorem State.setIv_xiv (s : State) (v : BlockReg) : (s.setIv v).xiv = s.xiv := rfl
@[simp] theorem State.setIv_lastIv (s : State) (v : BlockReg) : (s.setIv v).lastIv = s.lastIv := rfl
@[simp] theorem State.setIv_sk1 (s : State) (v : BlockReg) : (s.setIv v).sk1 = s.sk1 := rfl
@[simp] theorem State.setIv_sk2 (s : State) (v : BlockReg) : (s.setIv v).sk2 = s.sk2 := rfl
@[simp] theorem State.setIv_key (s : State) (v : BlockReg) : (s.setIv v).key = s.key := rfl
@[simp] theorem State.setIv_skenc (s : State) (v : BlockReg) : (s.setIv v).skenc = s.skenc := rfl
@[simp] theorem State.setIv_skmac (s : State) (v : BlockReg) : (s.setIv v).skmac = s.skmac := rfl
@[simp] theorem State.setIv_dbuf (s : State) (v : BlockReg) : (s.setIv v).dbuf = s.dbuf := rfl
@[simp] theorem State.setIv_epoch (s : State) (v : BlockReg) : (s.setIv v).epoch = s.epoch := rfl
@[simp] theorem State.setIv_fitted (s : State) (v : BlockReg) : (s.setIv v).fitted = s.fitted := rfl
@[simp] theorem State.setIv_pending (s : State) (v : BlockReg) : (s.setIv v).pending = s.pending := rfl
@[simp] theorem State.setIv_rdata (s : State) (v : BlockReg) : (s.setIv v).rdata = s.rdata := rfl

/-! ### `State.setXiv` -/

@[simp] theorem State.setXiv_ctrl (s : State) (v : BlockReg) : (s.setXiv v).ctrl = s.ctrl := rfl
@[simp] theorem State.setXiv_status (s : State) (v : BlockReg) : (s.setXiv v).status = s.status := rfl
@[simp] theorem State.setXiv_len (s : State) (v : BlockReg) : (s.setXiv v).len = s.len := rfl
@[simp] theorem State.setXiv_crcr (s : State) (v : BlockReg) : (s.setXiv v).crcr = s.crcr := rfl
@[simp] theorem State.setXiv_iv (s : State) (v : BlockReg) : (s.setXiv v).iv = s.iv := rfl
@[simp] theorem State.setXiv_xiv (s : State) (v : BlockReg) : (s.setXiv v).xiv = v := rfl
@[simp] theorem State.setXiv_lastIv (s : State) (v : BlockReg) : (s.setXiv v).lastIv = s.lastIv := rfl
@[simp] theorem State.setXiv_sk1 (s : State) (v : BlockReg) : (s.setXiv v).sk1 = s.sk1 := rfl
@[simp] theorem State.setXiv_sk2 (s : State) (v : BlockReg) : (s.setXiv v).sk2 = s.sk2 := rfl
@[simp] theorem State.setXiv_key (s : State) (v : BlockReg) : (s.setXiv v).key = s.key := rfl
@[simp] theorem State.setXiv_skenc (s : State) (v : BlockReg) : (s.setXiv v).skenc = s.skenc := rfl
@[simp] theorem State.setXiv_skmac (s : State) (v : BlockReg) : (s.setXiv v).skmac = s.skmac := rfl
@[simp] theorem State.setXiv_dbuf (s : State) (v : BlockReg) : (s.setXiv v).dbuf = s.dbuf := rfl
@[simp] theorem State.setXiv_epoch (s : State) (v : BlockReg) : (s.setXiv v).epoch = s.epoch := rfl
@[simp] theorem State.setXiv_fitted (s : State) (v : BlockReg) : (s.setXiv v).fitted = s.fitted := rfl
@[simp] theorem State.setXiv_pending (s : State) (v : BlockReg) : (s.setXiv v).pending = s.pending := rfl
@[simp] theorem State.setXiv_rdata (s : State) (v : BlockReg) : (s.setXiv v).rdata = s.rdata := rfl

/-! ### `State.setLastIv` -/

@[simp] theorem State.setLastIv_ctrl (s : State) (v : BlockReg) : (s.setLastIv v).ctrl = s.ctrl := rfl
@[simp] theorem State.setLastIv_status (s : State) (v : BlockReg) : (s.setLastIv v).status = s.status := rfl
@[simp] theorem State.setLastIv_len (s : State) (v : BlockReg) : (s.setLastIv v).len = s.len := rfl
@[simp] theorem State.setLastIv_crcr (s : State) (v : BlockReg) : (s.setLastIv v).crcr = s.crcr := rfl
@[simp] theorem State.setLastIv_iv (s : State) (v : BlockReg) : (s.setLastIv v).iv = s.iv := rfl
@[simp] theorem State.setLastIv_xiv (s : State) (v : BlockReg) : (s.setLastIv v).xiv = s.xiv := rfl
@[simp] theorem State.setLastIv_lastIv (s : State) (v : BlockReg) : (s.setLastIv v).lastIv = v := rfl
@[simp] theorem State.setLastIv_sk1 (s : State) (v : BlockReg) : (s.setLastIv v).sk1 = s.sk1 := rfl
@[simp] theorem State.setLastIv_sk2 (s : State) (v : BlockReg) : (s.setLastIv v).sk2 = s.sk2 := rfl
@[simp] theorem State.setLastIv_key (s : State) (v : BlockReg) : (s.setLastIv v).key = s.key := rfl
@[simp] theorem State.setLastIv_skenc (s : State) (v : BlockReg) : (s.setLastIv v).skenc = s.skenc := rfl
@[simp] theorem State.setLastIv_skmac (s : State) (v : BlockReg) : (s.setLastIv v).skmac = s.skmac := rfl
@[simp] theorem State.setLastIv_dbuf (s : State) (v : BlockReg) : (s.setLastIv v).dbuf = s.dbuf := rfl
@[simp] theorem State.setLastIv_epoch (s : State) (v : BlockReg) : (s.setLastIv v).epoch = s.epoch := rfl
@[simp] theorem State.setLastIv_fitted (s : State) (v : BlockReg) : (s.setLastIv v).fitted = s.fitted := rfl
@[simp] theorem State.setLastIv_pending (s : State) (v : BlockReg) : (s.setLastIv v).pending = s.pending := rfl
@[simp] theorem State.setLastIv_rdata (s : State) (v : BlockReg) : (s.setLastIv v).rdata = s.rdata := rfl

/-! ### `State.setSk1` -/

@[simp] theorem State.setSk1_ctrl (s : State) (v : BlockReg) : (s.setSk1 v).ctrl = s.ctrl := rfl
@[simp] theorem State.setSk1_status (s : State) (v : BlockReg) : (s.setSk1 v).status = s.status := rfl
@[simp] theorem State.setSk1_len (s : State) (v : BlockReg) : (s.setSk1 v).len = s.len := rfl
@[simp] theorem State.setSk1_crcr (s : State) (v : BlockReg) : (s.setSk1 v).crcr = s.crcr := rfl
@[simp] theorem State.setSk1_iv (s : State) (v : BlockReg) : (s.setSk1 v).iv = s.iv := rfl
@[simp] theorem State.setSk1_xiv (s : State) (v : BlockReg) : (s.setSk1 v).xiv = s.xiv := rfl
@[simp] theorem State.setSk1_lastIv (s : State) (v : BlockReg) : (s.setSk1 v).lastIv = s.lastIv := rfl
@[simp] theorem State.setSk1_sk1 (s : State) (v : BlockReg) : (s.setSk1 v).sk1 = v := rfl
@[simp] theorem State.setSk1_sk2 (s : State) (v : BlockReg) : (s.setSk1 v).sk2 = s.sk2 := rfl
@[simp] theorem State.setSk1_key (s : State) (v : BlockReg) : (s.setSk1 v).key = s.key := rfl
@[simp] theorem State.setSk1_skenc (s : State) (v : BlockReg) : (s.setSk1 v).skenc = s.skenc := rfl
@[simp] theorem State.setSk1_skmac (s : State) (v : BlockReg) : (s.setSk1 v).skmac = s.skmac := rfl
@[simp] theorem State.setSk1_dbuf (s : State) (v : BlockReg) : (s.setSk1 v).dbuf = s.dbuf := rfl
@[simp] theorem State.setSk1_epoch (s : State) (v : BlockReg) : (s.setSk1 v).epoch = s.epoch := rfl
@[simp] theorem State.setSk1_fitted (s : State) (v : BlockReg) : (s.setSk1 v).fitted = s.fitted := rfl
@[simp] theorem State.setSk1_pending (s : State) (v : BlockReg) : (s.setSk1 v).pending = s.pending := rfl
@[simp] theorem State.setSk1_rdata (s : State) (v : BlockReg) : (s.setSk1 v).rdata = s.rdata := rfl

/-! ### `State.setSk2` -/

@[simp] theorem State.setSk2_ctrl (s : State) (v : BlockReg) : (s.setSk2 v).ctrl = s.ctrl := rfl
@[simp] theorem State.setSk2_status (s : State) (v : BlockReg) : (s.setSk2 v).status = s.status := rfl
@[simp] theorem State.setSk2_len (s : State) (v : BlockReg) : (s.setSk2 v).len = s.len := rfl
@[simp] theorem State.setSk2_crcr (s : State) (v : BlockReg) : (s.setSk2 v).crcr = s.crcr := rfl
@[simp] theorem State.setSk2_iv (s : State) (v : BlockReg) : (s.setSk2 v).iv = s.iv := rfl
@[simp] theorem State.setSk2_xiv (s : State) (v : BlockReg) : (s.setSk2 v).xiv = s.xiv := rfl
@[simp] theorem State.setSk2_lastIv (s : State) (v : BlockReg) : (s.setSk2 v).lastIv = s.lastIv := rfl
@[simp] theorem State.setSk2_sk1 (s : State) (v : BlockReg) : (s.setSk2 v).sk1 = s.sk1 := rfl
@[simp] theorem State.setSk2_sk2 (s : State) (v : BlockReg) : (s.setSk2 v).sk2 = v := rfl
@[simp] theorem State.setSk2_key (s : State) (v : BlockReg) : (s.setSk2 v).key = s.key := rfl
@[simp] theorem State.setSk2_skenc (s : State) (v : BlockReg) : (s.setSk2 v).skenc = s.skenc := rfl
@[simp] theorem State.setSk2_skmac (s : State) (v : BlockReg) : (s.setSk2 v).skmac = s.skmac := rfl
@[simp] theorem State.setSk2_dbuf (s : State) (v : BlockReg) : (s.setSk2 v).dbuf = s.dbuf := rfl
@[simp] theorem State.setSk2_epoch (s : State) (v : BlockReg) : (s.setSk2 v).epoch = s.epoch := rfl
@[simp] theorem State.setSk2_fitted (s : State) (v : BlockReg) : (s.setSk2 v).fitted = s.fitted := rfl
@[simp] theorem State.setSk2_pending (s : State) (v : BlockReg) : (s.setSk2 v).pending = s.pending := rfl
@[simp] theorem State.setSk2_rdata (s : State) (v : BlockReg) : (s.setSk2 v).rdata = s.rdata := rfl

/-! ### `State.setKey` -/

@[simp] theorem State.setKey_ctrl (s : State) (v : KeyBytes) : (s.setKey v).ctrl = s.ctrl := rfl
@[simp] theorem State.setKey_status (s : State) (v : KeyBytes) : (s.setKey v).status = s.status := rfl
@[simp] theorem State.setKey_len (s : State) (v : KeyBytes) : (s.setKey v).len = s.len := rfl
@[simp] theorem State.setKey_crcr (s : State) (v : KeyBytes) : (s.setKey v).crcr = s.crcr := rfl
@[simp] theorem State.setKey_iv (s : State) (v : KeyBytes) : (s.setKey v).iv = s.iv := rfl
@[simp] theorem State.setKey_xiv (s : State) (v : KeyBytes) : (s.setKey v).xiv = s.xiv := rfl
@[simp] theorem State.setKey_lastIv (s : State) (v : KeyBytes) : (s.setKey v).lastIv = s.lastIv := rfl
@[simp] theorem State.setKey_sk1 (s : State) (v : KeyBytes) : (s.setKey v).sk1 = s.sk1 := rfl
@[simp] theorem State.setKey_sk2 (s : State) (v : KeyBytes) : (s.setKey v).sk2 = s.sk2 := rfl
@[simp] theorem State.setKey_key (s : State) (v : KeyBytes) : (s.setKey v).key = v := rfl
@[simp] theorem State.setKey_skenc (s : State) (v : KeyBytes) : (s.setKey v).skenc = s.skenc := rfl
@[simp] theorem State.setKey_skmac (s : State) (v : KeyBytes) : (s.setKey v).skmac = s.skmac := rfl
@[simp] theorem State.setKey_dbuf (s : State) (v : KeyBytes) : (s.setKey v).dbuf = s.dbuf := rfl
@[simp] theorem State.setKey_epoch (s : State) (v : KeyBytes) : (s.setKey v).epoch = s.epoch := rfl
@[simp] theorem State.setKey_fitted (s : State) (v : KeyBytes) : (s.setKey v).fitted = s.fitted := rfl
@[simp] theorem State.setKey_pending (s : State) (v : KeyBytes) : (s.setKey v).pending = s.pending := rfl
@[simp] theorem State.setKey_rdata (s : State) (v : KeyBytes) : (s.setKey v).rdata = s.rdata := rfl

/-! ### `State.setSkenc` -/

@[simp] theorem State.setSkenc_ctrl (s : State) (v : KeyBytes) : (s.setSkenc v).ctrl = s.ctrl := rfl
@[simp] theorem State.setSkenc_status (s : State) (v : KeyBytes) : (s.setSkenc v).status = s.status := rfl
@[simp] theorem State.setSkenc_len (s : State) (v : KeyBytes) : (s.setSkenc v).len = s.len := rfl
@[simp] theorem State.setSkenc_crcr (s : State) (v : KeyBytes) : (s.setSkenc v).crcr = s.crcr := rfl
@[simp] theorem State.setSkenc_iv (s : State) (v : KeyBytes) : (s.setSkenc v).iv = s.iv := rfl
@[simp] theorem State.setSkenc_xiv (s : State) (v : KeyBytes) : (s.setSkenc v).xiv = s.xiv := rfl
@[simp] theorem State.setSkenc_lastIv (s : State) (v : KeyBytes) : (s.setSkenc v).lastIv = s.lastIv := rfl
@[simp] theorem State.setSkenc_sk1 (s : State) (v : KeyBytes) : (s.setSkenc v).sk1 = s.sk1 := rfl
@[simp] theorem State.setSkenc_sk2 (s : State) (v : KeyBytes) : (s.setSkenc v).sk2 = s.sk2 := rfl
@[simp] theorem State.setSkenc_key (s : State) (v : KeyBytes) : (s.setSkenc v).key = s.key := rfl
@[simp] theorem State.setSkenc_skenc (s : State) (v : KeyBytes) : (s.setSkenc v).skenc = v := rfl
@[simp] theorem State.setSkenc_skmac (s : State) (v : KeyBytes) : (s.setSkenc v).skmac = s.skmac := rfl
@[simp] theorem State.setSkenc_dbuf (s : State) (v : KeyBytes) : (s.setSkenc v).dbuf = s.dbuf := rfl
@[simp] theorem State.setSkenc_epoch (s : State) (v : KeyBytes) : (s.setSkenc v).epoch = s.epoch := rfl
@[simp] theorem State.setSkenc_fitted (s : State) (v : KeyBytes) : (s.setSkenc v).fitted = s.fitted := rfl
@[simp] theorem State.setSkenc_pending (s : State) (v : KeyBytes) : (s.setSkenc v).pending = s.pending := rfl
@[simp] theorem State.setSkenc_rdata (s : State) (v : KeyBytes) : (s.setSkenc v).rdata = s.rdata := rfl

/-! ### `State.setSkmac` -/

@[simp] theorem State.setSkmac_ctrl (s : State) (v : KeyBytes) : (s.setSkmac v).ctrl = s.ctrl := rfl
@[simp] theorem State.setSkmac_status (s : State) (v : KeyBytes) : (s.setSkmac v).status = s.status := rfl
@[simp] theorem State.setSkmac_len (s : State) (v : KeyBytes) : (s.setSkmac v).len = s.len := rfl
@[simp] theorem State.setSkmac_crcr (s : State) (v : KeyBytes) : (s.setSkmac v).crcr = s.crcr := rfl
@[simp] theorem State.setSkmac_iv (s : State) (v : KeyBytes) : (s.setSkmac v).iv = s.iv := rfl
@[simp] theorem State.setSkmac_xiv (s : State) (v : KeyBytes) : (s.setSkmac v).xiv = s.xiv := rfl
@[simp] theorem State.setSkmac_lastIv (s : State) (v : KeyBytes) : (s.setSkmac v).lastIv = s.lastIv := rfl
@[simp] theorem State.setSkmac_sk1 (s : State) (v : KeyBytes) : (s.setSkmac v).sk1 = s.sk1 := rfl
@[simp] theorem State.setSkmac_sk2 (s : State) (v : KeyBytes) : (s.setSkmac v).sk2 = s.sk2 := rfl
@[simp] theorem State.setSkmac_key (s : State) (v : KeyBytes) : (s.setSkmac v).key = s.key := rfl
@[simp] theorem State.setSkmac_skenc (s : State) (v : KeyBytes) : (s.setSkmac v).skenc = s.skenc := rfl
@[simp] theorem State.setSkmac_skmac (s : State) (v : KeyBytes) : (s.setSkmac v).skmac = v := rfl
@[simp] theorem State.setSkmac_dbuf (s : State) (v : KeyBytes) : (s.setSkmac v).dbuf = s.dbuf := rfl
@[simp] theorem State.setSkmac_epoch (s : State) (v : KeyBytes) : (s.setSkmac v).epoch = s.epoch := rfl
@[simp] theorem State.setSkmac_fitted (s : State) (v : KeyBytes) : (s.setSkmac v).fitted = s.fitted := rfl
@[simp] theorem State.setSkmac_pending (s : State) (v : KeyBytes) : (s.setSkmac v).pending = s.pending := rfl
@[simp] theorem State.setSkmac_rdata (s : State) (v : KeyBytes) : (s.setSkmac v).rdata = s.rdata := rfl

/-! ### `State.setDbuf` -/

@[simp] theorem State.setDbuf_ctrl (s : State) (lo : Nat) (bs : List Byte) : (s.setDbuf lo bs).ctrl = s.ctrl := rfl
@[simp] theorem State.setDbuf_status (s : State) (lo : Nat) (bs : List Byte) : (s.setDbuf lo bs).status = s.status := rfl
@[simp] theorem State.setDbuf_len (s : State) (lo : Nat) (bs : List Byte) : (s.setDbuf lo bs).len = s.len := rfl
@[simp] theorem State.setDbuf_crcr (s : State) (lo : Nat) (bs : List Byte) : (s.setDbuf lo bs).crcr = s.crcr := rfl
@[simp] theorem State.setDbuf_iv (s : State) (lo : Nat) (bs : List Byte) : (s.setDbuf lo bs).iv = s.iv := rfl
@[simp] theorem State.setDbuf_xiv (s : State) (lo : Nat) (bs : List Byte) : (s.setDbuf lo bs).xiv = s.xiv := rfl
@[simp] theorem State.setDbuf_lastIv (s : State) (lo : Nat) (bs : List Byte) : (s.setDbuf lo bs).lastIv = s.lastIv := rfl
@[simp] theorem State.setDbuf_sk1 (s : State) (lo : Nat) (bs : List Byte) : (s.setDbuf lo bs).sk1 = s.sk1 := rfl
@[simp] theorem State.setDbuf_sk2 (s : State) (lo : Nat) (bs : List Byte) : (s.setDbuf lo bs).sk2 = s.sk2 := rfl
@[simp] theorem State.setDbuf_key (s : State) (lo : Nat) (bs : List Byte) : (s.setDbuf lo bs).key = s.key := rfl
@[simp] theorem State.setDbuf_skenc (s : State) (lo : Nat) (bs : List Byte) : (s.setDbuf lo bs).skenc = s.skenc := rfl
@[simp] theorem State.setDbuf_skmac (s : State) (lo : Nat) (bs : List Byte) : (s.setDbuf lo bs).skmac = s.skmac := rfl
@[simp] theorem State.setDbuf_dbuf (s : State) (lo : Nat) (bs : List Byte) : (s.setDbuf lo bs).dbuf = memStoreBytes s.dbuf lo bs := rfl
@[simp] theorem State.setDbuf_epoch (s : State) (lo : Nat) (bs : List Byte) : (s.setDbuf lo bs).epoch = s.epoch := rfl
@[simp] theorem State.setDbuf_fitted (s : State) (lo : Nat) (bs : List Byte) : (s.setDbuf lo bs).fitted = s.fitted := rfl
@[simp] theorem State.setDbuf_pending (s : State) (lo : Nat) (bs : List Byte) : (s.setDbuf lo bs).pending = s.pending := rfl
@[simp] theorem State.setDbuf_rdata (s : State) (lo : Nat) (bs : List Byte) : (s.setDbuf lo bs).rdata = s.rdata := rfl

/-! ### `State.setPending` -/

@[simp] theorem State.setPending_ctrl (s : State) (v : List HostEvent) : (s.setPending v).ctrl = s.ctrl := rfl
@[simp] theorem State.setPending_status (s : State) (v : List HostEvent) : (s.setPending v).status = s.status := rfl
@[simp] theorem State.setPending_len (s : State) (v : List HostEvent) : (s.setPending v).len = s.len := rfl
@[simp] theorem State.setPending_crcr (s : State) (v : List HostEvent) : (s.setPending v).crcr = s.crcr := rfl
@[simp] theorem State.setPending_iv (s : State) (v : List HostEvent) : (s.setPending v).iv = s.iv := rfl
@[simp] theorem State.setPending_xiv (s : State) (v : List HostEvent) : (s.setPending v).xiv = s.xiv := rfl
@[simp] theorem State.setPending_lastIv (s : State) (v : List HostEvent) : (s.setPending v).lastIv = s.lastIv := rfl
@[simp] theorem State.setPending_sk1 (s : State) (v : List HostEvent) : (s.setPending v).sk1 = s.sk1 := rfl
@[simp] theorem State.setPending_sk2 (s : State) (v : List HostEvent) : (s.setPending v).sk2 = s.sk2 := rfl
@[simp] theorem State.setPending_key (s : State) (v : List HostEvent) : (s.setPending v).key = s.key := rfl
@[simp] theorem State.setPending_skenc (s : State) (v : List HostEvent) : (s.setPending v).skenc = s.skenc := rfl
@[simp] theorem State.setPending_skmac (s : State) (v : List HostEvent) : (s.setPending v).skmac = s.skmac := rfl
@[simp] theorem State.setPending_dbuf (s : State) (v : List HostEvent) : (s.setPending v).dbuf = s.dbuf := rfl
@[simp] theorem State.setPending_epoch (s : State) (v : List HostEvent) : (s.setPending v).epoch = s.epoch := rfl
@[simp] theorem State.setPending_fitted (s : State) (v : List HostEvent) : (s.setPending v).fitted = s.fitted := rfl
@[simp] theorem State.setPending_pending (s : State) (v : List HostEvent) : (s.setPending v).pending = v := rfl
@[simp] theorem State.setPending_rdata (s : State) (v : List HostEvent) : (s.setPending v).rdata = s.rdata := rfl

/-! ### `State.setRdata` -/

@[simp] theorem State.setRdata_ctrl (s : State) (v : Word) : (s.setRdata v).ctrl = s.ctrl := rfl
@[simp] theorem State.setRdata_status (s : State) (v : Word) : (s.setRdata v).status = s.status := rfl
@[simp] theorem State.setRdata_len (s : State) (v : Word) : (s.setRdata v).len = s.len := rfl
@[simp] theorem State.setRdata_crcr (s : State) (v : Word) : (s.setRdata v).crcr = s.crcr := rfl
@[simp] theorem State.setRdata_iv (s : State) (v : Word) : (s.setRdata v).iv = s.iv := rfl
@[simp] theorem State.setRdata_xiv (s : State) (v : Word) : (s.setRdata v).xiv = s.xiv := rfl
@[simp] theorem State.setRdata_lastIv (s : State) (v : Word) : (s.setRdata v).lastIv = s.lastIv := rfl
@[simp] theorem State.setRdata_sk1 (s : State) (v : Word) : (s.setRdata v).sk1 = s.sk1 := rfl
@[simp] theorem State.setRdata_sk2 (s : State) (v : Word) : (s.setRdata v).sk2 = s.sk2 := rfl
@[simp] theorem State.setRdata_key (s : State) (v : Word) : (s.setRdata v).key = s.key := rfl
@[simp] theorem State.setRdata_skenc (s : State) (v : Word) : (s.setRdata v).skenc = s.skenc := rfl
@[simp] theorem State.setRdata_skmac (s : State) (v : Word) : (s.setRdata v).skmac = s.skmac := rfl
@[simp] theorem State.setRdata_dbuf (s : State) (v : Word) : (s.setRdata v).dbuf = s.dbuf := rfl
@[simp] theorem State.setRdata_epoch (s : State) (v : Word) : (s.setRdata v).epoch = s.epoch := rfl
@[simp] theorem State.setRdata_fitted (s : State) (v : Word) : (s.setRdata v).fitted = s.fitted := rfl
@[simp] theorem State.setRdata_pending (s : State) (v : Word) : (s.setRdata v).pending = s.pending := rfl
@[simp] theorem State.setRdata_rdata (s : State) (v : Word) : (s.setRdata v).rdata = some v := rfl

/-! ### The functions that read CTRL, LEN and the key registers -/

@[simp] theorem State.setCtrl_lenNat (s : State) (v : Word) : (s.setCtrl v).lenNat = s.lenNat := rfl
@[simp] theorem State.setCtrl_keyReg (s : State) (v : Word) (k : KeySel) : (s.setCtrl v).keyReg k = s.keyReg k := by
  cases k <;> rfl
@[simp] theorem dbufByte_setCtrl (s : State) (v : Word) (i : Nat) : dbufByte (s.setCtrl v) i = dbufByte s i := rfl
@[simp] theorem dbufRead_setCtrl (s : State) (v : Word) (lo n : Nat) : dbufRead (s.setCtrl v) lo n = dbufRead s lo n := rfl
@[simp] theorem State.setCtrl_data (s : State) (v : Word) : (s.setCtrl v).data = s.data := rfl
@[simp] theorem State.setStatus_alg (s : State) (v : Word) : (s.setStatus v).alg = s.alg := rfl
@[simp] theorem State.setStatus_chan (s : State) (v : Word) : (s.setStatus v).chan = s.chan := rfl
@[simp] theorem State.setStatus_lenNat (s : State) (v : Word) : (s.setStatus v).lenNat = s.lenNat := rfl
@[simp] theorem State.setStatus_keyReg (s : State) (v : Word) (k : KeySel) : (s.setStatus v).keyReg k = s.keyReg k := by
  cases k <;> rfl
@[simp] theorem dbufByte_setStatus (s : State) (v : Word) (i : Nat) : dbufByte (s.setStatus v) i = dbufByte s i := rfl
@[simp] theorem dbufRead_setStatus (s : State) (v : Word) (lo n : Nat) : dbufRead (s.setStatus v) lo n = dbufRead s lo n := rfl
@[simp] theorem State.setStatus_data (s : State) (v : Word) : (s.setStatus v).data = s.data := rfl
@[simp] theorem State.setLen_alg (s : State) (v : BitVec 16) : (s.setLen v).alg = s.alg := rfl
@[simp] theorem State.setLen_chan (s : State) (v : BitVec 16) : (s.setLen v).chan = s.chan := rfl
@[simp] theorem State.setLen_keyReg (s : State) (v : BitVec 16) (k : KeySel) : (s.setLen v).keyReg k = s.keyReg k := by
  cases k <;> rfl
@[simp] theorem dbufByte_setLen (s : State) (v : BitVec 16) (i : Nat) : dbufByte (s.setLen v) i = dbufByte s i := rfl
@[simp] theorem dbufRead_setLen (s : State) (v : BitVec 16) (lo n : Nat) : dbufRead (s.setLen v) lo n = dbufRead s lo n := rfl
@[simp] theorem State.setCrcr_alg (s : State) (v : Word) : (s.setCrcr v).alg = s.alg := rfl
@[simp] theorem State.setCrcr_chan (s : State) (v : Word) : (s.setCrcr v).chan = s.chan := rfl
@[simp] theorem State.setCrcr_lenNat (s : State) (v : Word) : (s.setCrcr v).lenNat = s.lenNat := rfl
@[simp] theorem State.setCrcr_keyReg (s : State) (v : Word) (k : KeySel) : (s.setCrcr v).keyReg k = s.keyReg k := by
  cases k <;> rfl
@[simp] theorem dbufByte_setCrcr (s : State) (v : Word) (i : Nat) : dbufByte (s.setCrcr v) i = dbufByte s i := rfl
@[simp] theorem dbufRead_setCrcr (s : State) (v : Word) (lo n : Nat) : dbufRead (s.setCrcr v) lo n = dbufRead s lo n := rfl
@[simp] theorem State.setCrcr_data (s : State) (v : Word) : (s.setCrcr v).data = s.data := rfl
@[simp] theorem State.setIv_alg (s : State) (v : BlockReg) : (s.setIv v).alg = s.alg := rfl
@[simp] theorem State.setIv_chan (s : State) (v : BlockReg) : (s.setIv v).chan = s.chan := rfl
@[simp] theorem State.setIv_lenNat (s : State) (v : BlockReg) : (s.setIv v).lenNat = s.lenNat := rfl
@[simp] theorem State.setIv_keyReg (s : State) (v : BlockReg) (k : KeySel) : (s.setIv v).keyReg k = s.keyReg k := by
  cases k <;> rfl
@[simp] theorem dbufByte_setIv (s : State) (v : BlockReg) (i : Nat) : dbufByte (s.setIv v) i = dbufByte s i := rfl
@[simp] theorem dbufRead_setIv (s : State) (v : BlockReg) (lo n : Nat) : dbufRead (s.setIv v) lo n = dbufRead s lo n := rfl
@[simp] theorem State.setIv_data (s : State) (v : BlockReg) : (s.setIv v).data = s.data := rfl
@[simp] theorem State.setXiv_alg (s : State) (v : BlockReg) : (s.setXiv v).alg = s.alg := rfl
@[simp] theorem State.setXiv_chan (s : State) (v : BlockReg) : (s.setXiv v).chan = s.chan := rfl
@[simp] theorem State.setXiv_lenNat (s : State) (v : BlockReg) : (s.setXiv v).lenNat = s.lenNat := rfl
@[simp] theorem State.setXiv_keyReg (s : State) (v : BlockReg) (k : KeySel) : (s.setXiv v).keyReg k = s.keyReg k := by
  cases k <;> rfl
@[simp] theorem dbufByte_setXiv (s : State) (v : BlockReg) (i : Nat) : dbufByte (s.setXiv v) i = dbufByte s i := rfl
@[simp] theorem dbufRead_setXiv (s : State) (v : BlockReg) (lo n : Nat) : dbufRead (s.setXiv v) lo n = dbufRead s lo n := rfl
@[simp] theorem State.setXiv_data (s : State) (v : BlockReg) : (s.setXiv v).data = s.data := rfl
@[simp] theorem State.setLastIv_alg (s : State) (v : BlockReg) : (s.setLastIv v).alg = s.alg := rfl
@[simp] theorem State.setLastIv_chan (s : State) (v : BlockReg) : (s.setLastIv v).chan = s.chan := rfl
@[simp] theorem State.setLastIv_lenNat (s : State) (v : BlockReg) : (s.setLastIv v).lenNat = s.lenNat := rfl
@[simp] theorem State.setLastIv_keyReg (s : State) (v : BlockReg) (k : KeySel) : (s.setLastIv v).keyReg k = s.keyReg k := by
  cases k <;> rfl
@[simp] theorem dbufByte_setLastIv (s : State) (v : BlockReg) (i : Nat) : dbufByte (s.setLastIv v) i = dbufByte s i := rfl
@[simp] theorem dbufRead_setLastIv (s : State) (v : BlockReg) (lo n : Nat) : dbufRead (s.setLastIv v) lo n = dbufRead s lo n := rfl
@[simp] theorem State.setLastIv_data (s : State) (v : BlockReg) : (s.setLastIv v).data = s.data := rfl
@[simp] theorem State.setSk1_alg (s : State) (v : BlockReg) : (s.setSk1 v).alg = s.alg := rfl
@[simp] theorem State.setSk1_chan (s : State) (v : BlockReg) : (s.setSk1 v).chan = s.chan := rfl
@[simp] theorem State.setSk1_lenNat (s : State) (v : BlockReg) : (s.setSk1 v).lenNat = s.lenNat := rfl
@[simp] theorem State.setSk1_keyReg (s : State) (v : BlockReg) (k : KeySel) : (s.setSk1 v).keyReg k = s.keyReg k := by
  cases k <;> rfl
@[simp] theorem dbufByte_setSk1 (s : State) (v : BlockReg) (i : Nat) : dbufByte (s.setSk1 v) i = dbufByte s i := rfl
@[simp] theorem dbufRead_setSk1 (s : State) (v : BlockReg) (lo n : Nat) : dbufRead (s.setSk1 v) lo n = dbufRead s lo n := rfl
@[simp] theorem State.setSk1_data (s : State) (v : BlockReg) : (s.setSk1 v).data = s.data := rfl
@[simp] theorem State.setSk2_alg (s : State) (v : BlockReg) : (s.setSk2 v).alg = s.alg := rfl
@[simp] theorem State.setSk2_chan (s : State) (v : BlockReg) : (s.setSk2 v).chan = s.chan := rfl
@[simp] theorem State.setSk2_lenNat (s : State) (v : BlockReg) : (s.setSk2 v).lenNat = s.lenNat := rfl
@[simp] theorem State.setSk2_keyReg (s : State) (v : BlockReg) (k : KeySel) : (s.setSk2 v).keyReg k = s.keyReg k := by
  cases k <;> rfl
@[simp] theorem dbufByte_setSk2 (s : State) (v : BlockReg) (i : Nat) : dbufByte (s.setSk2 v) i = dbufByte s i := rfl
@[simp] theorem dbufRead_setSk2 (s : State) (v : BlockReg) (lo n : Nat) : dbufRead (s.setSk2 v) lo n = dbufRead s lo n := rfl
@[simp] theorem State.setSk2_data (s : State) (v : BlockReg) : (s.setSk2 v).data = s.data := rfl
@[simp] theorem State.setKey_alg (s : State) (v : KeyBytes) : (s.setKey v).alg = s.alg := rfl
@[simp] theorem State.setKey_chan (s : State) (v : KeyBytes) : (s.setKey v).chan = s.chan := rfl
@[simp] theorem State.setKey_lenNat (s : State) (v : KeyBytes) : (s.setKey v).lenNat = s.lenNat := rfl
@[simp] theorem dbufByte_setKey (s : State) (v : KeyBytes) (i : Nat) : dbufByte (s.setKey v) i = dbufByte s i := rfl
@[simp] theorem dbufRead_setKey (s : State) (v : KeyBytes) (lo n : Nat) : dbufRead (s.setKey v) lo n = dbufRead s lo n := rfl
@[simp] theorem State.setKey_data (s : State) (v : KeyBytes) : (s.setKey v).data = s.data := rfl
@[simp] theorem State.setSkenc_alg (s : State) (v : KeyBytes) : (s.setSkenc v).alg = s.alg := rfl
@[simp] theorem State.setSkenc_chan (s : State) (v : KeyBytes) : (s.setSkenc v).chan = s.chan := rfl
@[simp] theorem State.setSkenc_lenNat (s : State) (v : KeyBytes) : (s.setSkenc v).lenNat = s.lenNat := rfl
@[simp] theorem dbufByte_setSkenc (s : State) (v : KeyBytes) (i : Nat) : dbufByte (s.setSkenc v) i = dbufByte s i := rfl
@[simp] theorem dbufRead_setSkenc (s : State) (v : KeyBytes) (lo n : Nat) : dbufRead (s.setSkenc v) lo n = dbufRead s lo n := rfl
@[simp] theorem State.setSkenc_data (s : State) (v : KeyBytes) : (s.setSkenc v).data = s.data := rfl
@[simp] theorem State.setSkmac_alg (s : State) (v : KeyBytes) : (s.setSkmac v).alg = s.alg := rfl
@[simp] theorem State.setSkmac_chan (s : State) (v : KeyBytes) : (s.setSkmac v).chan = s.chan := rfl
@[simp] theorem State.setSkmac_lenNat (s : State) (v : KeyBytes) : (s.setSkmac v).lenNat = s.lenNat := rfl
@[simp] theorem dbufByte_setSkmac (s : State) (v : KeyBytes) (i : Nat) : dbufByte (s.setSkmac v) i = dbufByte s i := rfl
@[simp] theorem dbufRead_setSkmac (s : State) (v : KeyBytes) (lo n : Nat) : dbufRead (s.setSkmac v) lo n = dbufRead s lo n := rfl
@[simp] theorem State.setSkmac_data (s : State) (v : KeyBytes) : (s.setSkmac v).data = s.data := rfl
@[simp] theorem State.setDbuf_alg (s : State) (lo : Nat) (bs : List Byte) : (s.setDbuf lo bs).alg = s.alg := rfl
@[simp] theorem State.setDbuf_chan (s : State) (lo : Nat) (bs : List Byte) : (s.setDbuf lo bs).chan = s.chan := rfl
@[simp] theorem State.setDbuf_lenNat (s : State) (lo : Nat) (bs : List Byte) : (s.setDbuf lo bs).lenNat = s.lenNat := rfl
@[simp] theorem State.setDbuf_keyReg (s : State) (lo : Nat) (bs : List Byte) (k : KeySel) : (s.setDbuf lo bs).keyReg k = s.keyReg k := by
  cases k <;> rfl
@[simp] theorem State.setPending_alg (s : State) (v : List HostEvent) : (s.setPending v).alg = s.alg := rfl
@[simp] theorem State.setPending_chan (s : State) (v : List HostEvent) : (s.setPending v).chan = s.chan := rfl
@[simp] theorem State.setPending_lenNat (s : State) (v : List HostEvent) : (s.setPending v).lenNat = s.lenNat := rfl
@[simp] theorem State.setPending_keyReg (s : State) (v : List HostEvent) (k : KeySel) : (s.setPending v).keyReg k = s.keyReg k := by
  cases k <;> rfl
@[simp] theorem dbufByte_setPending (s : State) (v : List HostEvent) (i : Nat) : dbufByte (s.setPending v) i = dbufByte s i := rfl
@[simp] theorem dbufRead_setPending (s : State) (v : List HostEvent) (lo n : Nat) : dbufRead (s.setPending v) lo n = dbufRead s lo n := rfl
@[simp] theorem State.setPending_data (s : State) (v : List HostEvent) : (s.setPending v).data = s.data := rfl
@[simp] theorem State.setRdata_alg (s : State) (v : Word) : (s.setRdata v).alg = s.alg := rfl
@[simp] theorem State.setRdata_chan (s : State) (v : Word) : (s.setRdata v).chan = s.chan := rfl
@[simp] theorem State.setRdata_lenNat (s : State) (v : Word) : (s.setRdata v).lenNat = s.lenNat := rfl
@[simp] theorem State.setRdata_keyReg (s : State) (v : Word) (k : KeySel) : (s.setRdata v).keyReg k = s.keyReg k := by
  cases k <;> rfl
@[simp] theorem dbufByte_setRdata (s : State) (v : Word) (i : Nat) : dbufByte (s.setRdata v) i = dbufByte s i := rfl
@[simp] theorem dbufRead_setRdata (s : State) (v : Word) (lo n : Nat) : dbufRead (s.setRdata v) lo n = dbufRead s lo n := rfl
@[simp] theorem State.setRdata_data (s : State) (v : Word) : (s.setRdata v).data = s.data := rfl

/-! ### `State.d40Reset` and `State.setIvReg` -/

theorem State.d40Reset_iv (s : State) : s.d40Reset.iv = if s.chan = .d40 then zeroBlock else s.iv := by
  unfold State.d40Reset; split <;> rfl

@[simp] theorem State.d40Reset_ctrl (s : State) : s.d40Reset.ctrl = s.ctrl := by
  unfold State.d40Reset; split <;> rfl
@[simp] theorem State.d40Reset_status (s : State) : s.d40Reset.status = s.status := by
  unfold State.d40Reset; split <;> rfl
@[simp] theorem State.d40Reset_len (s : State) : s.d40Reset.len = s.len := by
  unfold State.d40Reset; split <;> rfl
@[simp] theorem State.d40Reset_crcr (s : State) : s.d40Reset.crcr = s.crcr := by
  unfold State.d40Reset; split <;> rfl
@[simp] theorem State.d40Reset_xiv (s : State) : s.d40Reset.xiv = s.xiv := by
  unfold State.d40Reset; split <;> rfl
@[simp] theorem State.d40Reset_lastIv (s : State) : s.d40Reset.lastIv = s.lastIv := by
  unfold State.d40Reset; split <;> rfl
@[simp] theorem State.d40Reset_sk1 (s : State) : s.d40Reset.sk1 = s.sk1 := by
  unfold State.d40Reset; split <;> rfl
@[simp] theorem State.d40Reset_sk2 (s : State) : s.d40Reset.sk2 = s.sk2 := by
  unfold State.d40Reset; split <;> rfl
@[simp] theorem State.d40Reset_key (s : State) : s.d40Reset.key = s.key := by
  unfold State.d40Reset; split <;> rfl
@[simp] theorem State.d40Reset_skenc (s : State) : s.d40Reset.skenc = s.skenc := by
  unfold State.d40Reset; split <;> rfl
@[simp] theorem State.d40Reset_skmac (s : State) : s.d40Reset.skmac = s.skmac := by
  unfold State.d40Reset; split <;> rfl
@[simp] theorem State.d40Reset_dbuf (s : State) : s.d40Reset.dbuf = s.dbuf := by
  unfold State.d40Reset; split <;> rfl
@[simp] theorem State.d40Reset_epoch (s : State) : s.d40Reset.epoch = s.epoch := by
  unfold State.d40Reset; split <;> rfl
@[simp] theorem State.d40Reset_fitted (s : State) : s.d40Reset.fitted = s.fitted := by
  unfold State.d40Reset; split <;> rfl
@[simp] theorem State.d40Reset_pending (s : State) : s.d40Reset.pending = s.pending := by
  unfold State.d40Reset; split <;> rfl
@[simp] theorem State.d40Reset_rdata (s : State) : s.d40Reset.rdata = s.rdata := by
  unfold State.d40Reset; split <;> rfl
@[simp] theorem State.d40Reset_alg (s : State) : s.d40Reset.alg = s.alg := by
  unfold State.d40Reset; split <;> rfl
@[simp] theorem State.d40Reset_chan (s : State) : s.d40Reset.chan = s.chan := by
  unfold State.d40Reset; split <;> rfl
@[simp] theorem State.d40Reset_lenNat (s : State) : s.d40Reset.lenNat = s.lenNat := by
  unfold State.d40Reset; split <;> rfl
@[simp] theorem State.d40Reset_data (s : State) : s.d40Reset.data = s.data := by
  unfold State.d40Reset; split <;> rfl
@[simp] theorem State.d40Reset_keyReg (s : State) (k : KeySel) : s.d40Reset.keyReg k = s.keyReg k := by
  unfold State.d40Reset; split <;> simp
@[simp] theorem dbufByte_d40Reset (s : State) (i : Nat) : dbufByte s.d40Reset i = dbufByte s i := by
  unfold State.d40Reset; split <;> rfl
@[simp] theorem dbufRead_d40Reset (s : State) (lo n : Nat) : dbufRead s.d40Reset lo n = dbufRead s lo n := by
  unfold State.d40Reset; split <;> rfl

@[simp] theorem State.writeBackIv_ctrl (s : State) (x : IvSource) (xf : List Byte) : (s.writeBackIv x xf).ctrl = s.ctrl := by
  cases x <;> rfl
@[simp] theorem State.writeBackIv_status (s : State) (x : IvSource) (xf : List Byte) : (s.writeBackIv x xf).status = s.status := by
  cases x <;> rfl
@[simp] theorem State.writeBackIv_len (s : State) (x : IvSource) (xf : List Byte) : (s.writeBackIv x xf).len = s.len := by
  cases x <;> rfl
@[simp] theorem State.writeBackIv_crcr (s : State) (x : IvSource) (xf : List Byte) : (s.writeBackIv x xf).crcr = s.crcr := by
  cases x <;> rfl
@[simp] theorem State.writeBackIv_lastIv (s : State) (x : IvSource) (xf : List Byte) : (s.writeBackIv x xf).lastIv = s.lastIv := by
  cases x <;> rfl
@[simp] theorem State.writeBackIv_sk1 (s : State) (x : IvSource) (xf : List Byte) : (s.writeBackIv x xf).sk1 = s.sk1 := by
  cases x <;> rfl
@[simp] theorem State.writeBackIv_sk2 (s : State) (x : IvSource) (xf : List Byte) : (s.writeBackIv x xf).sk2 = s.sk2 := by
  cases x <;> rfl
@[simp] theorem State.writeBackIv_key (s : State) (x : IvSource) (xf : List Byte) : (s.writeBackIv x xf).key = s.key := by
  cases x <;> rfl
@[simp] theorem State.writeBackIv_skenc (s : State) (x : IvSource) (xf : List Byte) : (s.writeBackIv x xf).skenc = s.skenc := by
  cases x <;> rfl
@[simp] theorem State.writeBackIv_skmac (s : State) (x : IvSource) (xf : List Byte) : (s.writeBackIv x xf).skmac = s.skmac := by
  cases x <;> rfl
@[simp] theorem State.writeBackIv_dbuf (s : State) (x : IvSource) (xf : List Byte) : (s.writeBackIv x xf).dbuf = s.dbuf := by
  cases x <;> rfl
@[simp] theorem State.writeBackIv_epoch (s : State) (x : IvSource) (xf : List Byte) : (s.writeBackIv x xf).epoch = s.epoch := by
  cases x <;> rfl
@[simp] theorem State.writeBackIv_fitted (s : State) (x : IvSource) (xf : List Byte) : (s.writeBackIv x xf).fitted = s.fitted := by
  cases x <;> rfl
@[simp] theorem State.writeBackIv_pending (s : State) (x : IvSource) (xf : List Byte) : (s.writeBackIv x xf).pending = s.pending := by
  cases x <;> rfl
@[simp] theorem State.writeBackIv_rdata (s : State) (x : IvSource) (xf : List Byte) : (s.writeBackIv x xf).rdata = s.rdata := by
  cases x <;> rfl
@[simp] theorem State.writeBackIv_iv_context (s : State) (xf : List Byte) :
    (s.writeBackIv .context xf).iv = setPrefix s.iv xf := rfl
@[simp] theorem State.writeBackIv_iv_external (s : State) (xf : List Byte) :
    (s.writeBackIv .external xf).iv = s.iv := rfl
@[simp] theorem State.writeBackIv_xiv_context (s : State) (xf : List Byte) :
    (s.writeBackIv .context xf).xiv = s.xiv := rfl
@[simp] theorem State.writeBackIv_xiv_external (s : State) (xf : List Byte) :
    (s.writeBackIv .external xf).xiv = setPrefix s.xiv xf := rfl
@[simp] theorem dbufByte_writeBackIv (s : State) (x : IvSource) (xf : List Byte) (i : Nat) :
    dbufByte (s.writeBackIv x xf) i = dbufByte s i := by
  cases x <;> rfl

end Sys2Proof.Machine
end

