-- ==== Sys2Proof/Laws/Memory.lean ====
section
/-! SUPPORT. DBUF: a read after a store, every store keeps the canonical form, and what a read of a slice
gives. -/

namespace Sys2Proof.Machine

/-! ### One byte -/

theorem memLookup_memInsert (m : List Host.Cell) (i j : Nat) (b : Byte) :
    memLookup (memInsert m i b) j = if i = j then some b else memLookup m j := by
  induction m with
  | nil => simp [memInsert, memLookup]
  | cons c m ih =>
    unfold memInsert
    by_cases h1 : i < c.1
    · simp [h1, memLookup]
    · by_cases h2 : i = c.1
      · by_cases h3 : i = j <;> simp_all [memLookup]
      · rw [if_neg h1, if_neg h2]
        simp only [memLookup, ih]
        by_cases h3 : c.1 = j
        · rw [if_pos h3, if_neg (by omega), if_pos h3]
        · rw [if_neg h3, if_neg h3]

theorem memLookup_memStore (m : List Host.Cell) (i j : Nat) (b : Byte) :
    memLookup (memStore m i b) j =
      if i = j ∧ i < Config.bufBytes then some b else memLookup m j := by
  unfold memStore
  by_cases h : i < Config.bufBytes <;> simp [h, memLookup_memInsert]

theorem mem_memInsert (m : List Host.Cell) (i : Nat) (b : Byte) (c : Host.Cell)
    (h : c ∈ memInsert m i b) : c = (i, b) ∨ c ∈ m := by
  induction m with
  | nil => simpa [memInsert] using h
  | cons a m ih =>
    unfold memInsert at h
    split at h
    · simpa using h
    · split at h
      · simp only [List.mem_cons] at h ⊢
        tauto
      · simp only [List.mem_cons] at h ⊢
        rcases h with h | h
        · exact .inr (.inl h)
        · rcases ih h with h | h
          · exact .inl h
          · exact .inr (.inr h)

theorem memInsert_pairwise (m : List Host.Cell) (i : Nat) (b : Byte)
    (h : m.Pairwise (fun a b => a.1 < b.1)) :
    (memInsert m i b).Pairwise (fun a b => a.1 < b.1) := by
  induction m with
  | nil => simp [memInsert]
  | cons a m ih =>
    rw [List.pairwise_cons] at h
    unfold memInsert
    split
    · rename_i hlt
      rw [List.pairwise_cons, List.pairwise_cons]
      refine ⟨fun c hc => ?_, h⟩
      rcases List.mem_cons.1 hc with rfl | hc
      · exact hlt
      · exact lt_trans hlt (h.1 c hc)
    · split
      · rename_i heq
        rw [List.pairwise_cons]
        exact ⟨fun c hc => by simpa [heq] using h.1 c hc, h.2⟩
      · rename_i hlt hne
        rw [List.pairwise_cons]
        refine ⟨fun c hc => ?_, ih h.2⟩
        rcases mem_memInsert m i b c hc with rfl | hc
        · show a.1 < i
          omega
        · exact h.1 c hc

/-- Every store keeps DBUF's canonical form. -/
theorem memStore_wf (m : List Host.Cell) (i : Nat) (b : Byte) (h : Memory.wf m) :
    Memory.wf (memStore m i b) := by
  unfold memStore
  split
  · rename_i hi
    refine ⟨memInsert_pairwise m i b h.1, fun c hc => ?_⟩
    rcases mem_memInsert m i b c hc with rfl | hc
    · exact hi
    · exact h.2 c hc
  · exact h

/-! ### A byte string -/

theorem memStoreBytes_wf (bs : List Byte) (m : List Host.Cell) (i : Nat) (h : Memory.wf m) :
    Memory.wf (memStoreBytes m i bs) := by
  induction bs generalizing m i with
  | nil => exact h
  | cons b bs ih => exact ih _ _ (memStore_wf m i b h)

/-- A read after a store: the stored byte inside the stored range, the old value outside it. -/
theorem memLookup_memStoreBytes (bs : List Byte) (m : List Host.Cell) (lo j : Nat) :
    memLookup (memStoreBytes m lo bs) j =
      if lo ≤ j ∧ j < lo + bs.length ∧ j < Config.bufBytes then bs[j - lo]? else memLookup m j := by
  induction bs generalizing m lo with
  | nil =>
    rw [if_neg (by simp only [List.length_nil]; omega)]
    rfl
  | cons b bs ih =>
    rw [memStoreBytes, ih, memLookup_memStore]
    by_cases h1 : lo = j
    · subst h1
      by_cases h2 : lo < Config.bufBytes
      · simp [h2]
      · simp [h2]
    · by_cases h2 : lo + 1 ≤ j ∧ j < lo + 1 + bs.length ∧ j < Config.bufBytes
      · have h3 : lo ≤ j ∧ j < lo + (b :: bs).length ∧ j < Config.bufBytes := by
          simp only [List.length_cons]; omega
        have h4 : j - lo = (j - (lo + 1)) + 1 := by omega
        rw [if_pos h2, if_pos h3, h4, List.getElem?_cons_succ]
      · have h3 : ¬ (lo ≤ j ∧ j < lo + (b :: bs).length ∧ j < Config.bufBytes) := by
          simp only [List.length_cons]; omega
        rw [if_neg h2, if_neg h3, if_neg (by tauto)]

/-- DBUF's canonical form holds after reset. -/
theorem reset_dbuf_wf : Memory.wf State.reset.dbuf := by
  simp [State.reset, Memory.wf]

/-! ### Reading bytes and slices of a state -/

@[simp] theorem dbufRead_length (s : State) (lo n : Nat) : (dbufRead s lo n).length = n := by
  simp [dbufRead]

@[simp] theorem dbufRead_getElem (s : State) (lo n i : Nat) (h : i < (dbufRead s lo n).length) :
    (dbufRead s lo n)[i] = dbufByte s (lo + i) := by
  simp [dbufRead]

@[simp] theorem data_length (s : State) : s.data.length = s.lenNat := by
  simp [State.data]

/-- `DBUF[j]` after a store: the stored byte inside the stored range, the old value outside it. -/
theorem dbufByte_setDbuf (s : State) (lo j : Nat) (bs : List Byte) :
    dbufByte (s.setDbuf lo bs) j =
      if lo ≤ j ∧ j < lo + bs.length ∧ j < Config.bufBytes then bs.getD (j - lo) 0 else dbufByte s j := by
  unfold dbufByte
  rw [State.setDbuf_dbuf, memLookup_memStoreBytes, State.setDbuf_epoch]
  split
  · rename_i h
    have : j - lo < bs.length := by omega
    simp [List.getD, this]
  · rfl

/-- A byte outside the stored range is unchanged. -/
theorem dbufByte_setDbuf_outside (s : State) (lo j : Nat) (bs : List Byte)
    (h : j < lo ∨ lo + bs.length ≤ j) : dbufByte (s.setDbuf lo bs) j = dbufByte s j := by
  rw [dbufByte_setDbuf, if_neg (by omega)]

/-- Two slices are equal if their bytes are. -/
theorem dbufRead_congr (s t : State) (lo lo' n : Nat)
    (h : ∀ i < n, dbufByte s (lo + i) = dbufByte t (lo' + i)) :
    dbufRead s lo n = dbufRead t lo' n := by
  apply List.ext_getElem
  · simp
  · intro i h1 h2
    simp only [dbufRead_getElem]
    exact h i (by simpa using h1)

/-- A stored byte string reads back. -/
theorem dbufRead_setDbuf_same (s : State) (lo : Nat) (bs : List Byte)
    (h : lo + bs.length ≤ Config.bufBytes) : dbufRead (s.setDbuf lo bs) lo bs.length = bs := by
  apply List.ext_getElem
  · simp
  · intro i h1 h2
    simp only [dbufRead_getElem]
    rw [dbufByte_setDbuf, if_pos (by omega)]
    simp [List.getD, h2]

/-- A slice outside the stored range reads as before. -/
theorem dbufRead_setDbuf_outside (s : State) (lo lo' n : Nat) (bs : List Byte)
    (h : lo' + n ≤ lo ∨ lo + bs.length ≤ lo') :
    dbufRead (s.setDbuf lo bs) lo' n = dbufRead s lo' n :=
  dbufRead_congr _ _ _ _ _ fun i hi => dbufByte_setDbuf_outside _ _ _ _ (by omega)

/-- A slice inside the stored range reads the stored bytes. -/
theorem dbufRead_setDbuf_inside (s : State) (lo k n : Nat) (bs : List Byte)
    (hk : k + n ≤ bs.length) (h : lo + bs.length ≤ Config.bufBytes) :
    dbufRead (s.setDbuf lo bs) (lo + k) n = (bs.drop k).take n := by
  apply List.ext_getElem
  · simp; omega
  · intro i h1 h2
    have hi : i < n := by simpa using h1
    simp only [dbufRead_getElem, List.getElem_take, List.getElem_drop]
    rw [dbufByte_setDbuf, if_pos (by omega), List.getD_eq_getElem?_getD,
      List.getElem?_eq_getElem (by omega)]
    simp only [Option.getD_some]
    congr 1
    omega

/-- A slice split in two. -/
theorem dbufRead_add (s : State) (lo m n : Nat) :
    dbufRead s lo (m + n) = dbufRead s lo m ++ dbufRead s (lo + m) n := by
  simp [dbufRead, List.range_add, Nat.add_assoc]

/-- A slice of a slice. -/
theorem dbufRead_drop_take (s : State) (lo n k m : Nat) (h : k + m ≤ n) :
    ((dbufRead s lo n).drop k).take m = dbufRead s (lo + k) m := by
  apply List.ext_getElem
  · simp; omega
  · intro i h1 h2
    simp [Nat.add_assoc]

end Sys2Proof.Machine
end

