-- ==== Sys2Proof/Laws/Primitives.lean ====
section
/-! SUPPORT. The configuration functions answer strings of the widths spec/00_scope.md R12 states, for a key of the
algorithm's length. -/

namespace Sys2Proof.Machine

@[simp] theorem desBlock_length (keys : List (BitVec 48)) (blk : List Byte) :
    (desBlock keys blk).length = 8 := by
  simp [desBlock]

@[simp] theorem aesMixColumns_length (s : List Byte) : (aesMixColumns s).length = 16 := by
  simp [aesMixColumns, aesMixWith]

@[simp] theorem aesInvMixColumns_length (s : List Byte) : (aesInvMixColumns s).length = 16 := by
  simp [aesInvMixColumns, aesMixWith]

@[simp] theorem aesShiftRows_length (s : List Byte) : (aesShiftRows s).length = 16 := by
  simp [aesShiftRows]

@[simp] theorem aesInvShiftRows_length (s : List Byte) : (aesInvShiftRows s).length = 16 := by
  simp [aesInvShiftRows]

theorem aesNextKey_length (rc : Byte) (k : List Byte) (h : k.length = 16) :
    (aesNextKey rc k).length = 16 := by
  simp [aesNextKey, h]

theorem aesKeySchedule_lengths (n : Nat) (rc : Byte) (k : List Byte) (h : k.length = 16) :
    ∀ r ∈ aesKeySchedule n rc k, r.length = 16 := by
  induction n generalizing rc k with
  | zero => simpa [aesKeySchedule] using h
  | succ n ih =>
    intro r hr
    rw [aesKeySchedule, List.mem_cons] at hr
    rcases hr with rfl | hr
    · exact h
    · exact ih _ _ (aesNextKey_length _ _ h) r hr

theorem aesEncRounds_length (ks : List (List Byte)) (s : List Byte) (hs : s.length = 16)
    (hk : ∀ k ∈ ks, k.length = 16) : (aesEncRounds ks s).length = 16 := by
  induction ks generalizing s with
  | nil => simpa [aesEncRounds] using hs
  | cons k ks ih =>
    cases ks with
    | nil => simp [aesEncRounds, aesLastRound, hk k (by simp)]
    | cons k' ks =>
      rw [aesEncRounds]
      exact ih _ (by simp [aesRound, hk k (by simp)]) fun r hr => hk r (List.mem_cons_of_mem _ hr)

theorem aesDecRounds_length (ks : List (List Byte)) (s : List Byte) (hs : s.length = 16) :
    (aesDecRounds ks s).length = 16 := by
  cases ks with
  | nil => simpa [aesDecRounds] using hs
  | cons k ks =>
    cases ks with
    | nil => simp [aesDecRounds, aesInvLastRound]
    | cons k' ks => simp [aesDecRounds, aesInvRound]

theorem aesKeys_eq (key : List Byte) :
    aesKeys key = key :: aesKeySchedule 9 (aesXtime 1) (aesNextKey 1 key) := rfl

theorem aesEnc_length (key blk : List Byte) (hk : key.length = 16) (hb : blk.length = 16) :
    (aesEnc key blk).length = 16 := by
  rw [aesEnc, aesKeys_eq]
  exact aesEncRounds_length _ _ (by simp [hk, hb])
    (aesKeySchedule_lengths _ _ _ (aesNextKey_length _ _ hk))

theorem aesDec_length (key blk : List Byte) (hk : key.length = 16) (hb : blk.length = 16) :
    (aesDec key blk).length = 16 := by
  rw [aesDec, aesKeys_eq]
  simp [aesDecRounds_length _ _ hb, hk]

/-- Enc answers a block (R12). -/
theorem encBlock_length (f : Fitted) (a : Alg) (key blk : List Byte) (hk : key.length = keyLen a)
    (hb : blk.length = blockLen a) : (encBlock f a key blk).length = blockLen a := by
  cases f with
  | other n => simp [encBlock]
  | intended =>
    cases a with
    | des => simp [encBlock, intendedEnc, desEnc, blockLen]
    | tdes2 => simp [encBlock, intendedEnc, tdeaEnc, desEnc, blockLen]
    | tdes3 => simp [encBlock, intendedEnc, tdeaEnc, desEnc, blockLen]
    | aes => exact aesEnc_length key blk hk hb

/-- Dec answers a block (R12). -/
theorem decBlock_length (f : Fitted) (a : Alg) (key blk : List Byte) (hk : key.length = keyLen a)
    (hb : blk.length = blockLen a) : (decBlock f a key blk).length = blockLen a := by
  cases f with
  | other n => simp [decBlock]
  | intended =>
    cases a with
    | des => simp [decBlock, intendedDec, desDec, blockLen]
    | tdes2 => simp [decBlock, intendedDec, tdeaDec, desDec, blockLen]
    | tdes3 => simp [decBlock, intendedDec, tdeaDec, desDec, blockLen]
    | aes => exact aesDec_length key blk hk hb

/-- The key handed to a primitive has exactly the algorithm's length (spec/41_chain.md R220). -/
@[simp] theorem keyOf_length (a : Alg) (reg : KeyBytes) : (keyOf a reg).length = keyLen a := by
  cases a <;> simp [keyOf, keyLen]

/-- The primitive of a command answers a block (spec/41_chain.md R221). -/
theorem prim_length (f : Fitted) (a : Alg) (key : List Byte) (m : Mode) (blk : List Byte)
    (hk : key.length = keyLen a) (hb : blk.length = blockLen a) :
    (prim f a key m blk).length = blockLen a := by
  cases m
  · exact decBlock_length f a key blk hk hb
  · exact encBlock_length f a key blk hk hb

theorem blockLen_pos (a : Alg) : 0 < blockLen a := by cases a <;> decide

theorem blockLen_le (a : Alg) : blockLen a ≤ 16 := by cases a <;> decide

end Sys2Proof.Machine
end

