-- ==== Sys2Proof/Laws/Chain.lean ====
section
/-! SUPPORT. The chained pass: how its input is cut into blocks, the lengths of what it answers, and a pass
over two strings in a row. -/

namespace Sys2Proof.Machine

/-! ### Blocks -/

@[simp] theorem blocksOf_length (bl : Nat) (src : List Byte) :
    (blocksOf bl src).length = src.length / bl := by
  simp [blocksOf]

theorem blocksOf_getElem (bl : Nat) (src : List Byte) (j : Nat) (h : j < (blocksOf bl src).length) :
    (blocksOf bl src)[j] = (src.drop (j * bl)).take bl := by
  simp [blocksOf]

theorem length_of_mem_blocksOf {bl : Nat} {src b : List Byte} (h : b ∈ blocksOf bl src) :
    b.length = bl := by
  simp only [blocksOf, List.mem_map, List.mem_range] at h
  obtain ⟨k, hk, rfl⟩ := h
  have h1 : (k + 1) * bl ≤ src.length / bl * bl := Nat.mul_le_mul_right _ hk
  have h2 : src.length / bl * bl ≤ src.length := Nat.div_mul_le_self _ _
  have h3 : (k + 1) * bl = k * bl + bl := by ring
  simp only [List.length_take, List.length_drop]
  omega

/-- The blocks of two strings in a row, the first a whole number of blocks. -/
theorem blocksOf_append (bl : Nat) (a b : List Byte) (hbl : 0 < bl) (h : a.length % bl = 0) :
    blocksOf bl (a ++ b) = blocksOf bl a ++ blocksOf bl b := by
  obtain ⟨n, hn⟩ := Nat.dvd_of_mod_eq_zero h
  have hdiv : (a ++ b).length / bl = n + b.length / bl := by
    rw [List.length_append, hn, Nat.mul_add_div hbl]
  have hdiva : a.length / bl = n := by rw [hn, Nat.mul_div_cancel_left _ hbl]
  unfold blocksOf
  rw [hdiv, hdiva, List.range_add, List.map_append, List.map_map]
  congr 1
  · apply List.map_congr_left
    intro k hk
    have hk' : k < n := List.mem_range.1 hk
    have h1 : (k + 1) * bl ≤ n * bl := Nat.mul_le_mul_right _ hk'
    have h2 : (k + 1) * bl = k * bl + bl := by ring
    have h3 : n * bl = a.length := by rw [hn]; ring
    rw [List.drop_append_of_le_length (by omega), List.take_append_of_le_length]
    simp only [List.length_drop]
    omega
  · apply List.map_congr_left
    intro k _
    simp only [Function.comp]
    have h3 : (n + k) * bl = a.length + k * bl := by rw [hn]; ring
    rw [h3, ← List.drop_drop, List.drop_left]

/-! ### Steps and passes -/

theorem chainStep_lengths {d : Dir} {e : List Byte → List Byte} {bl : Nat} {p x : List Byte}
    (he : ∀ b : List Byte, b.length = bl → (e b).length = bl) (hp : p.length = bl) (hx : x.length = bl) :
    (chainStep d e p x).1.length = bl ∧ (chainStep d e p x).2.length = bl := by
  cases d
  · simp [chainStep, he p hp, hx, hp]
  · simp [chainStep, he (xorBytes p x) (by simp [hp, hx])]

theorem passBlocks_lengths {d : Dir} {e : List Byte → List Byte} {bl : Nat}
    (he : ∀ b : List Byte, b.length = bl → (e b).length = bl) (ps : List (List Byte)) (x : List Byte)
    (hps : ∀ p ∈ ps, p.length = bl) (hx : x.length = bl) :
    (passBlocks d e ps x).1.length = ps.length * bl ∧ (passBlocks d e ps x).2.length = bl := by
  induction ps generalizing x with
  | nil => simp [passBlocks, hx]
  | cons p ps ih =>
    have hs := chainStep_lengths (d := d) he (hps p (by simp)) hx
    have hr := ih (chainStep d e p x).2 (fun q hq => hps q (List.mem_cons_of_mem _ hq)) hs.2
    simp only [passBlocks, List.length_append, List.length_cons, hs.1, hr.1, hr.2, and_true]
    ring

theorem passBlocks_append (d : Dir) (e : List Byte → List Byte) (ps qs : List (List Byte)) (x : List Byte) :
    passBlocks d e (ps ++ qs) x =
      ((passBlocks d e ps x).1 ++ (passBlocks d e qs (passBlocks d e ps x).2).1,
        (passBlocks d e qs (passBlocks d e ps x).2).2) := by
  induction ps generalizing x with
  | nil => simp [passBlocks]
  | cons p ps ih => simp [passBlocks, ih, List.append_assoc]

/-- The output of a pass is as long as its input; the final running IV is a block (R223). -/
theorem pass_lengths {d : Dir} {e : List Byte → List Byte} {bl : Nat} {src x0 : List Byte}
    (he : ∀ b : List Byte, b.length = bl → (e b).length = bl) (hx : x0.length = bl)
    (h : src.length % bl = 0) :
    (pass d e bl src x0).1.length = src.length ∧ (pass d e bl src x0).2.length = bl := by
  have := passBlocks_lengths (d := d) he (blocksOf bl src) x0 (fun _ hp => length_of_mem_blocksOf hp) hx
  refine ⟨?_, this.2⟩
  rw [pass, this.1, blocksOf_length]
  exact Nat.div_mul_cancel (Nat.dvd_of_mod_eq_zero h)

/-- A pass over two strings in a row carries the running IV from one to the other. -/
theorem pass_append (d : Dir) (e : List Byte → List Byte) (bl : Nat) (a b x0 : List Byte) (hbl : 0 < bl)
    (h : a.length % bl = 0) :
    pass d e bl (a ++ b) x0 =
      ((pass d e bl a x0).1 ++ (pass d e bl b (pass d e bl a x0).2).1,
        (pass d e bl b (pass d e bl a x0).2).2) := by
  rw [pass, blocksOf_append bl a b hbl h, passBlocks_append]
  rfl

@[simp] theorem pass_nil (d : Dir) (e : List Byte → List Byte) (bl : Nat) (x0 : List Byte) :
    pass d e bl [] x0 = ([], x0) := by
  simp [pass, blocksOf, passBlocks]

/-! ### The starting IV -/

theorem startIv_length (s : State) (x : IvSource) (bl : Nat) (h : bl ≤ 16) :
    (s.startIv x bl).length = bl := by
  simp [State.startIv]; omega

end Sys2Proof.Machine
end

