-- ==== Sys2Proof/Laws/Ops.lean ====
section
/-! SUPPORT. What the shared checks and endings of a command can do, said once for each: the case that goes on,
the case that rejects, and the inversion of an answer. -/

namespace Sys2Proof.Machine

/-! ### Endings -/

@[simp] theorem accepted_eq_next (s t : State) : accepted s = .next t ↔ s.setStatus 0 = t := by
  simp [accepted]

@[simp] theorem rejected_eq_next (e : EngineError) (s t : State) :
    rejected e s = .next t ↔ s.reject e = t := by
  simp [rejected]

@[simp] theorem verified_eq_next (ok : Bool) (s t : State) :
    verified ok s = .next t ↔ s.setStatus (if ok then 0x2 else 0x0) = t := by
  simp [verified]

/-- A rejected command changes STATUS alone. -/
theorem reject_eq (s : State) (e : EngineError) : s.reject e = s.setStatus (0x1 ||| e.code <<< 4) := rfl

/-! ### Checks -/

theorem requireAlg_some {s : State} {a : Alg} (go : Alg → Result) (h : s.alg = some a) :
    requireAlg s go = go a := by
  simp [requireAlg, h]

theorem requireAlg_none {s : State} (go : Alg → Result) (h : s.alg = none) :
    requireAlg s go = rejected .badAlg s := by
  simp [requireAlg, h]

theorem requireAlg_cases {s t : State} {go : Alg → Result} (h : requireAlg s go = .next t) :
    (∃ a, s.alg = some a ∧ go a = .next t) ∨ (s.alg = none ∧ s.reject .badAlg = t) := by
  cases ha : s.alg with
  | some a => exact .inl ⟨a, rfl, by rwa [requireAlg_some go ha] at h⟩
  | none => exact .inr ⟨rfl, by simpa [requireAlg_none go ha] using h⟩

theorem requireRoom_le {s : State} {n : Nat} (go : Result) (h : s.lenNat + n ≤ Config.bufBytes) :
    requireRoom n s go = go := by
  simp [requireRoom, h]

theorem requireRoom_gt {s : State} {n : Nat} (go : Result) (h : ¬ s.lenNat + n ≤ Config.bufBytes) :
    requireRoom n s go = rejected .lenRange s := by
  simp [requireRoom, h]

theorem requireRoom_cases {s t : State} {n : Nat} {go : Result} (h : requireRoom n s go = .next t) :
    (s.lenNat + n ≤ Config.bufBytes ∧ go = .next t) ∨
      (¬ s.lenNat + n ≤ Config.bufBytes ∧ s.reject .lenRange = t) := by
  by_cases hr : s.lenNat + n ≤ Config.bufBytes
  · exact .inl ⟨hr, by rwa [requireRoom_le go hr] at h⟩
  · exact .inr ⟨hr, by simpa [requireRoom_gt go hr] using h⟩

theorem requireAligned_zero {s : State} {bl : Nat} (go : Result) (h : s.lenNat % bl = 0) :
    requireAligned bl s go = go := by
  simp [requireAligned, h]

theorem requireAligned_ne {s : State} {bl : Nat} (go : Result) (h : ¬ s.lenNat % bl = 0) :
    requireAligned bl s go = rejected .lenAlign s := by
  simp [requireAligned, h]

theorem requireAligned_cases {s t : State} {bl : Nat} {go : Result}
    (h : requireAligned bl s go = .next t) :
    (s.lenNat % bl = 0 ∧ go = .next t) ∨ (¬ s.lenNat % bl = 0 ∧ s.reject .lenAlign = t) := by
  by_cases hr : s.lenNat % bl = 0
  · exact .inl ⟨hr, by rwa [requireAligned_zero go hr] at h⟩
  · exact .inr ⟨hr, by simpa [requireAligned_ne go hr] using h⟩

theorem requireKey_some {s : State} {k : KeySel} {reg : KeyBytes} (go : KeyBytes → Result)
    (h : s.keyReg k = some reg) : requireKey k s go = go reg := by
  simp [requireKey, h]

theorem requireKey_none {s : State} {k : KeySel} (go : KeyBytes → Result) (h : s.keyReg k = none) :
    requireKey k s go = rejected .illegalCmd s := by
  simp [requireKey, h]

theorem requireKey_cases {s t : State} {k : KeySel} {go : KeyBytes → Result}
    (h : requireKey k s go = .next t) :
    (∃ reg, s.keyReg k = some reg ∧ go reg = .next t) ∨
      (s.keyReg k = none ∧ s.reject .illegalCmd = t) := by
  cases hk : s.keyReg k with
  | some reg => exact .inl ⟨reg, rfl, by rwa [requireKey_some go hk] at h⟩
  | none => exact .inr ⟨rfl, by simpa [requireKey_none go hk] using h⟩

/-- The reserved key select, and it alone, names no register. -/
theorem keyReg_eq_none (s : State) (k : KeySel) : s.keyReg k = none ↔ k = .reserved := by
  cases k <;> simp [State.keyReg]

/-! ### Appending a CRC -/

@[simp] theorem appendCrc_crcr (s : State) (c : List Byte) : (s.appendCrc c).crcr = s.crcr := rfl

@[simp] theorem appendCrc_dbuf (s : State) (c : List Byte) :
    (s.appendCrc c).dbuf = memStoreBytes s.dbuf s.lenNat c := rfl

@[simp] theorem appendCrc_len (s : State) (c : List Byte) :
    (s.appendCrc c).len = BitVec.ofNat 16 (s.lenNat + c.length) := rfl

theorem appendCrc_lenNat (s : State) (c : List Byte) (h : s.lenNat + c.length ≤ Config.bufBytes) :
    (s.appendCrc c).lenNat = s.lenNat + c.length := by
  have : Config.bufBytes = 1024 := rfl
  simp only [State.lenNat, appendCrc_len, BitVec.toNat_ofNat]
  simp only [State.lenNat] at h
  omega

end Sys2Proof.Machine
end

