-- ==== Sys2Proof/Laws/Commands.lean ====
section
/-! SUPPORT. What the shared effects of the cipher commands do, said once for each: which command an accepted
command word performs, and what `chainTransform`, `withSubkeys` and `macTransform` leave in every field. -/

namespace Sys2Proof.Machine

/-! ### Accepted commands -/

theorem exec_chainx_ready {s : State} {k : KeySel} {a : Alg} {reg : KeyBytes} (d : Dir) (m : Mode) (x : IvSource)
    (h : ReadyToChain s k a reg) :
    exec (.chainx k d m x) s = accepted (chainTransform a (keyOf a reg) d m x s) := by
  simp only [exec, execChainx]
  rw [requireKey_some _ h.key, requireAlg_some _ h.alg, requireRoom_le _ h.room, requireAligned_zero _ h.aligned]

theorem exec_chain_ready {s : State} {k : KeySel} {a : Alg} {reg : KeyBytes} (enc : Bool)
    (h : ReadyToChain s k a reg) :
    exec (.chain k enc) s =
      accepted (chainTransform a (keyOf a reg) (resolveDir enc) (resolveMode enc s.chan) .context s) := by
  simp only [exec, execChain]
  rw [requireKey_some _ h.key, requireAlg_some _ h.alg, requireRoom_le _ h.room, requireAligned_zero _ h.aligned]

theorem exec_cmacsk_ready {s : State} {k : KeySel} {a : Alg} {reg : KeyBytes} (hk : s.keyReg k = some reg)
    (ha : s.alg = some a) : exec (.cmacsk k) s = accepted (withSubkeys a (keyOf a reg) s) := by
  simp only [exec, execCmacsk]
  rw [requireKey_some _ hk, requireAlg_some _ ha]

theorem exec_cmac_ready {s : State} {k : KeySel} {a : Alg} {reg : KeyBytes} (h : ReadyToMac s k a reg) :
    exec (.cmac k) s = accepted (macTransform a (keyOf a reg) s) := by
  simp only [exec, execCmac]
  rw [requireKey_some _ h.key, requireAlg_some _ h.alg, requireRoom_le _ h.room]

/-! ### The chained transform -/

/-- The pass an accepted chained transform makes: over the data, from the starting IV. -/
theorem startIv_d40Reset (s : State) (x : IvSource) (a : Alg) :
    s.d40Reset.startIv x (blockLen a) = startingIv s x (blockLen a) := by
  cases x with
  | context =>
    simp only [State.startIv, State.ivReg, startingIv, State.d40Reset_iv]
    split
    · cases a <;> rfl
    · rfl
  | external => simp [State.startIv, State.ivReg, startingIv]

theorem startingIv_length (s : State) (x : IvSource) (a : Alg) :
    (startingIv s x (blockLen a)).length = blockLen a := by
  rw [← startIv_d40Reset]
  exact startIv_length _ _ _ (blockLen_le a)

/-- `chainTransform` in every field: DBUF holds the pass's output, the chosen IV register its final running IV,
IV is zeroed first under D40, and nothing else changes. -/
theorem chainTransform_eq (a : Alg) (key : List Byte) (d : Dir) (m : Mode) (x : IvSource) (s : State) :
    chainTransform a key d m x s =
      let r := pass d (prim s.fitted a key m) (blockLen a) s.data (startingIv s x (blockLen a))
      { s with
        dbuf := memStoreBytes s.dbuf 0 r.1
        iv := match x with
          | .context => setPrefix s.d40Reset.iv r.2
          | .external => s.d40Reset.iv
        xiv := match x with
          | .context => s.xiv
          | .external => setPrefix s.xiv r.2 } := by
  simp only [chainTransform, State.d40Reset_data, startIv_d40Reset]
  cases x <;> unfold State.d40Reset <;> split <;> rfl

/-- The output of an accepted pass has LEN bytes and its final running IV is one block. -/
theorem chainTransform_lengths {s : State} {k : KeySel} {a : Alg} {reg : KeyBytes} (d : Dir) (m : Mode)
    (x : IvSource) (h : ReadyToChain s k a reg) :
    let r := pass d (prim s.fitted a (keyOf a reg) m) (blockLen a) s.data (startingIv s x (blockLen a))
    r.1.length = s.lenNat ∧ r.2.length = blockLen a := by
  have hp := pass_lengths (d := d) (x0 := startingIv s x (blockLen a))
    (fun b hb => prim_length s.fitted a (keyOf a reg) m b (keyOf_length a reg) hb)
    (startingIv_length s x a) (src := s.data) (by rw [data_length]; exact h.aligned)
  rw [data_length] at hp
  exact hp

/-! ### The CMAC transforms -/

theorem withSubkeys_eq (a : Alg) (key : List Byte) (s : State) :
    withSubkeys a key s =
      { s with
        iv := s.d40Reset.iv
        sk1 := subkeyReg (subkey1 s.fitted a key)
        sk2 := subkeyReg (subkey2 s.fitted a key) } := by
  unfold withSubkeys State.d40Reset; split <;> rfl

/-- `L` is the encipherment of a zero block (R261). -/
theorem subkeyL_eq (f : Fitted) (a : Alg) (key : List Byte) :
    subkeyL f a key = encBlock f a key (zeroBytes (blockLen a)) := by
  cases a <;> simp [subkeyL, pass, blocksOf, passBlocks, chainStep, prim, blockLen, zeroBytes, xorBytes,
    List.range_succ]

/-- `macTransform` in every field: the subkeys in SK1 and SK2, the pass's final running IV in IV, which is zeroed
first under D40, and nothing else changes. -/
theorem macTransform_eq (a : Alg) (key : List Byte) (s : State) :
    macTransform a key s =
      { s with
        iv := setPrefix s.d40Reset.iv
          (pass .send (prim s.fitted a key (resolveMode true s.chan)) (blockLen a)
            (padded (blockLen a) s.data (subkey1 s.fitted a key) (subkey2 s.fitted a key))
            (startingIv s .context (blockLen a))).2
        sk1 := subkeyReg (subkey1 s.fitted a key)
        sk2 := subkeyReg (subkey2 s.fitted a key) } := by
  have h1 : (withSubkeys a key s).d40Reset = withSubkeys a key s := by
    rw [withSubkeys_eq]
    by_cases hc : s.chan = .d40
    · rw [State.d40Reset_iv, if_pos hc]
      exact if_pos hc
    · exact if_neg hc
  have h2 : (withSubkeys a key s).data = s.data := by
    rw [withSubkeys_eq]
    rfl
  have h3 : (withSubkeys a key s).startIv .context (blockLen a) = startingIv s .context (blockLen a) := by
    rw [withSubkeys_eq, ← startIv_d40Reset]
    rfl
  unfold macTransform
  simp only [h1, h2, h3]
  rw [withSubkeys_eq]
  rfl

end Sys2Proof.Machine
end

