-- ==== Sys2Proof/Laws/DesInverse.lean ====
section
/-! SUPPORT. The intended DES and TDEA: decryption inverts encryption, and the reverse. -/

namespace Sys2Proof.Machine

/-- Bit `i` of a permuted value is the bit its table names, counted from the table's end. -/
theorem permute_fold_testBit {w : Nat} (x : BitVec w) (t : List Nat) (i : Nat) :
    (t.foldl (fun acc p => 2 * acc + (x.getLsbD (w - p)).toNat) 0).testBit i =
      match t.reverse[i]? with
      | some p => x.getLsbD (w - p)
      | none => false := by
  induction t using List.reverseRecOn generalizing i with
  | nil => simp
  | append_singleton t p ih =>
    rw [List.foldl_append]
    cases i with
    | zero => cases hb : x.getLsbD (w - p) <;> simp [hb, Nat.testBit_zero]
    | succ i =>
      simp only [List.foldl_cons, List.foldl_nil, List.reverse_append, List.reverse_cons, List.reverse_nil,
        List.nil_append, List.cons_append, List.getElem?_cons_succ]
      rw [← ih i, Nat.testBit_succ]
      congr 1
      cases x.getLsbD (w - p) <;> (simp; try omega)

theorem permute_getLsbD {w n : Nat} (t : List Nat) (x : BitVec w) (i : Nat) (h : i < n) :
    (permute n t x).getLsbD i =
      match t.reverse[i]? with
      | some p => x.getLsbD (w - p)
      | none => false := by
  rw [permute, BitVec.getLsbD_ofNat, permute_fold_testBit]
  simp [h]

/-- One table undoes another if following both leads every bit back to its place. -/
theorem permute_permute (t u : List Nat) (x : BitVec 64)
    (h : ∀ i < 64, ∃ p q, t.reverse[i]? = some p ∧ 64 - p < 64 ∧ u.reverse[64 - p]? = some q ∧ 64 - q = i) :
    permute 64 t (permute 64 u x) = x := by
  apply BitVec.eq_of_getLsbD_eq
  intro i hi
  obtain ⟨p, q, h1, h2, h3, h4⟩ := h i hi
  rw [permute_getLsbD _ _ _ hi, h1]
  simp only
  rw [permute_getLsbD _ _ _ h2, h3]
  simp only [h4]

/-- The lookup that `permute_permute` asks for, as a computation. -/
theorem tables_inverse (t u : List Nat)
    (h : ∀ i < 64, ((t.reverse[i]?).bind fun p => if 64 - p < 64 then (u.reverse[64 - p]?).map (64 - ·) else none)
      = some i) :
    ∀ i < 64, ∃ p q, t.reverse[i]? = some p ∧ 64 - p < 64 ∧ u.reverse[64 - p]? = some q ∧ 64 - q = i := by
  intro i hi
  have hi' := h i hi
  cases hp : t.reverse[i]? with
  | none => rw [hp] at hi'; cases hi'
  | some p =>
    rw [hp] at hi'
    simp only [Option.bind_some] at hi'
    split at hi'
    · rename_i hlt
      cases hq : u.reverse[64 - p]? with
      | none => rw [hq] at hi'; cases hi'
      | some q =>
        rw [hq] at hi'
        exact ⟨p, q, rfl, hlt, hq, by simpa using hi'⟩
    · cases hi'

theorem desFP_desIP (x : BitVec 64) : permute 64 desFP (permute 64 desIP x) = x :=
  permute_permute _ _ x (tables_inverse _ _ (by decide +kernel))

theorem desIP_desFP (x : BitVec 64) : permute 64 desIP (permute 64 desFP x) = x :=
  permute_permute _ _ x (tables_inverse _ _ (by decide +kernel))

theorem desRounds_append (ks js : List (BitVec 48)) (l r : BitVec 32) :
    desRounds (ks ++ js) l r = desRounds js (desRounds ks l r).1 (desRounds ks l r).2 := by
  induction ks generalizing l r with
  | nil => rfl
  | cons k ks ih => exact ih _ _

/-- The rounds with the keys in reverse order, on the exchanged halves, undo the rounds. -/
theorem desRounds_reverse (ks : List (BitVec 48)) (l r : BitVec 32) :
    desRounds ks.reverse (desRounds ks l r).2 (desRounds ks l r).1 = (r, l) := by
  induction ks generalizing l r with
  | nil => rfl
  | cons k ks ih =>
    rw [List.reverse_cons, desRounds_append]
    simp only [desRounds]
    rw [ih]
    simp

theorem desWord_beBytes (x : BitVec 64) : desWord (beBytes 8 x.toNat) = x := by
  have h : beNat (beBytes 8 x.toNat) = x.toNat := by
    have hx := x.isLt
    simp [beNat, beBytes, List.range_succ, BitVec.toNat_ofNat]
    omega
  rw [desWord, h, BitVec.ofNat_toNat, BitVec.setWidth_eq]

theorem beBytes_desWord (b : List Byte) (h : b.length = 8) : beBytes 8 (desWord b).toNat = b := by
  have hlt := beNat_lt b
  rw [h] at hlt
  rw [desWord, BitVec.toNat_ofNat, Nat.mod_eq_of_lt (by simpa using hlt)]
  conv_lhs => rw [← h]
  exact beBytes_beNat b

theorem append_halves (x : BitVec 64) : x.extractLsb' 32 32 ++ x.extractLsb' 0 32 = x := by
  apply BitVec.eq_of_getLsbD_eq
  intro i hi
  rw [BitVec.getLsbD_append, BitVec.getLsbD_extractLsb', BitVec.getLsbD_extractLsb']
  by_cases h : i < 32
  · simp [h]
  · have h' : i - 32 < 32 := by omega
    rw [if_neg h, show 32 + (i - 32) = i by omega]
    simp [h']

theorem append_high (l r : BitVec 32) : (l ++ r).extractLsb' 32 32 = l := by
  apply BitVec.eq_of_getLsbD_eq
  intro i hi
  rw [BitVec.getLsbD_extractLsb', BitVec.getLsbD_append, if_neg (by omega), Nat.add_sub_cancel_left]
  simp [hi]

theorem append_low (l r : BitVec 32) : (l ++ r).extractLsb' 0 32 = r := by
  apply BitVec.eq_of_getLsbD_eq
  intro i hi
  rw [BitVec.getLsbD_extractLsb', BitVec.getLsbD_append, Nat.zero_add, if_pos hi]
  simp [hi]

/-- DES with the round keys reversed undoes DES. -/
theorem desBlock_reverse (ks : List (BitVec 48)) (b : List Byte) (h : b.length = 8) :
    desBlock ks.reverse (desBlock ks b) = b := by
  simp only [desBlock, desWord_beBytes, desIP_desFP, append_high, append_low, desRounds_reverse,
    append_halves, desFP_desIP]
  exact beBytes_desWord b h

theorem desDec_desEnc (key b : List Byte) (h : b.length = 8) : desDec key (desEnc key b) = b :=
  desBlock_reverse _ b h

theorem desEnc_desDec (key b : List Byte) (h : b.length = 8) : desEnc key (desDec key b) = b := by
  have := desBlock_reverse (desKeys key).reverse b h
  rwa [List.reverse_reverse] at this

end Sys2Proof.Machine
end

