-- ==== Sys2Proof/Laws/PerInstr.lean ====
section
/-! SUPPORT. A rule about every command as syntax, one lemma for each command. -/

namespace Sys2Proof.Laws

/-- The word the encoder writes for a well-formed command is one that the legality rule of
spec/30_encoding.md R147 accepts. -/
def EncodeLegal.Statement (i : Instr) : Prop := i.wf = true → legal (encode i) = true

theorem EncodeLegal.nop : EncodeLegal.Statement .nop := by unfold EncodeLegal.Statement; decide
theorem EncodeLegal.chainx (k : KeySel) (d : Dir) (m : Mode) (x : IvSource) :
    EncodeLegal.Statement (.chainx k d m x) := by
  unfold EncodeLegal.Statement; cases k <;> cases d <;> cases m <;> cases x <;> decide
theorem EncodeLegal.chain (k : KeySel) (enc : Bool) : EncodeLegal.Statement (.chain k enc) := by
  unfold EncodeLegal.Statement; cases k <;> cases enc <;> decide
theorem EncodeLegal.cmacsk (k : KeySel) : EncodeLegal.Statement (.cmacsk k) := by
  unfold EncodeLegal.Statement; cases k <;> decide
theorem EncodeLegal.cmac (k : KeySel) : EncodeLegal.Statement (.cmac k) := by
  unfold EncodeLegal.Statement; cases k <;> decide
theorem EncodeLegal.crc32 : EncodeLegal.Statement .crc32 := by unfold EncodeLegal.Statement; decide
theorem EncodeLegal.crc32a : EncodeLegal.Statement .crc32a := by unfold EncodeLegal.Statement; decide
theorem EncodeLegal.crc32v : EncodeLegal.Statement .crc32v := by unfold EncodeLegal.Statement; decide
theorem EncodeLegal.crc16 : EncodeLegal.Statement .crc16 := by unfold EncodeLegal.Statement; decide
theorem EncodeLegal.crc16a : EncodeLegal.Statement .crc16a := by unfold EncodeLegal.Statement; decide
theorem EncodeLegal.crc16v : EncodeLegal.Statement .crc16v := by unfold EncodeLegal.Statement; decide
theorem EncodeLegal.clriv : EncodeLegal.Statement .clriv := by unfold EncodeLegal.Statement; decide
theorem EncodeLegal.clrsess : EncodeLegal.Statement .clrsess := by unfold EncodeLegal.Statement; decide
theorem EncodeLegal.clrctx : EncodeLegal.Statement .clrctx := by unfold EncodeLegal.Statement; decide

end Sys2Proof.Laws
end

