-- ==== Sys2Proof/Laws/Run.lean ====
section
/-! SUPPORT. Runs of the core one step at a time, the accesses the engine accepts, and the address map. -/

namespace Sys2Proof.Machine

/-! ### Runs -/

theorem run_succ_of_next (M : Host.Core) (n : Nat) (s t : M.State) (h : M.step s = .next t) :
    M.run (n + 1) s = M.run n t := by
  simp only [Host.Core.run, h]

theorem core_run_zero (s : State) : Host.Core.run Sys2Proof.core 0 s = .next s := rfl

/-- A run goes on from the state its first step answers. -/
theorem core_run_succ (n : Nat) (s t : State) (h : step s = .next t) :
    Host.Core.run Sys2Proof.core (n + 1) s = Host.Core.run Sys2Proof.core n t :=
  run_succ_of_next Sys2Proof.core n s t h

/-! ### Steps -/

/-- An accepted access is 32 bits wide, aligned and inside the window (spec/20_memory.md R104). -/
theorem accessOk_iff (width a : Nat) : accessOk width a = true ↔ width = 4 ∧ wordOffset a := by
  unfold accessOk wordOffset Config.windowBytes
  simp only [Bool.and_eq_true, beq_iff_eq, decide_eq_true_eq]
  constructor
  · rintro ⟨⟨h1, h2⟩, h3⟩
    exact ⟨h1, h2, by omega⟩
  · rintro ⟨h1, h2, h3⟩
    exact ⟨⟨h1, h2⟩, by omega⟩

theorem step_read {s : State} {a : Nat} {rest : List HostEvent} (h : s.pending = rd a :: rest)
    (ha : wordOffset a) : step s = .next ((s.setPending rest).setRdata ((s.setPending rest).readWord a)) := by
  have hok : accessOk 4 a = true := (accessOk_iff 4 a).2 ⟨rfl, ha⟩
  simp [step, h, rd, performEvent, hok]

theorem step_write {s : State} {a : Nat} {v : Word} {rest : List HostEvent}
    (h : s.pending = wr a v :: rest) (ha : wordOffset a) (hc : a ≠ cmdOffset) :
    step s = .next ((s.setPending rest).writeWord a v) := by
  have hok : accessOk 4 a = true := (accessOk_iff 4 a).2 ⟨rfl, ha⟩
  simp [step, h, wr, performEvent, hok, hc]

theorem step_command {s : State} {w : Word} {rest : List HostEvent}
    (h : s.pending = commandEvent w :: rest) : step s = runCommand w (s.setPending rest) := by
  simp [step, h, commandEvent, performEvent, accessOk, cmdOffset, Config.windowBytes]

/-! ### The address map -/

theorem hostAddress_offset (off : Nat) (h : off < Config.windowBytes) :
    offsetOfHostAddress (hostAddress off) = some off := by
  simp [offsetOfHostAddress, hostAddress, h]

/-- The regions of the map lie one after the other, word-aligned, inside the window. -/
theorem addressMap_disjoint :
    addressMap.Pairwise (fun r q => r.base + r.size ≤ q.base) ∧
      ∀ r ∈ addressMap, r.base % 4 = 0 ∧ r.size % 4 = 0 ∧ r.base + r.size ≤ Config.windowBytes := by
  decide

/-- An offset inside a region of the map is located there. -/
theorem locate_of_region {r : Region} (hr : r ∈ addressMap) {off : Nat} (h1 : r.base ≤ off)
    (h2 : off < r.base + r.size) : locate off = some (r.reg, off - r.base) := by
  have hb : Config.bufBytes = 1024 := rfl
  simp only [addressMap, List.mem_cons, List.not_mem_nil, or_false] at hr
  rcases hr with rfl | rfl | rfl | rfl | rfl | rfl | rfl | rfl | rfl | rfl | rfl | rfl | rfl | rfl <;>
  · simp only at h1 h2
    have : ∀ q ∈ addressMap, q.holds off = (decide (q.base ≤ off) && decide (off < q.base + q.size)) :=
      fun _ _ => rfl
    simp only [locate, addressMap, List.find?, Region.holds]
    repeat' first
      | (rw [show (decide _ && decide _) = false by
          simp only [Bool.and_eq_false_iff, decide_eq_false_iff_not]; omega])
      | (rw [show (decide _ && decide _) = true by
          simp only [Bool.and_eq_true, decide_eq_true_eq]; omega])

/-- An offset outside every region is reserved. -/
theorem locate_none {off : Nat} (h : ∀ r ∈ addressMap, off < r.base ∨ r.base + r.size ≤ off) :
    locate off = none := by
  have : addressMap.find? (fun r => r.holds off) = none := by
    rw [List.find?_eq_none]
    intro r hr
    have := h r hr
    simp only [Region.holds, Bool.and_eq_true, decide_eq_true_eq]
    omega
  simp [locate, this]

end Sys2Proof.Machine
end

