-- ==== Sys2Proof/Tests/Slice0.lean ====
section
/-! SUPPORT. Small tests: ill-formed commands are refused, words written out from spec/30_encoding.md R148
decode to their commands, vectors of spec/95_test_vectors.md come out, and for every statement with hypotheses a
state and operands that meet them. -/

open Sys2Proof Sys2Proof.Machine

/-! ### Well-formedness (R147: KSEL = 3 is no key) -/

theorem test_illFormed_chainx : (Instr.chainx .reserved .send .encode .context).wf = false := by decide
theorem test_illFormed_chain : (Instr.chain .reserved true).wf = false := by decide
theorem test_illFormed_cmacsk : (Instr.cmacsk .reserved).wf = false := by decide
theorem test_illFormed_cmac : (Instr.cmac .reserved).wf = false := by decide

/-! ### Decoding (R148, R149), each word written out from its fields -/

theorem test_decode_nop : decode 0b00000000000000000000000000000000 = .ok .nop := by decide
theorem test_decode_chainx :
    decode 0b00000000000000000000000101100001 = .ok (.chainx .smac .send .decode .external) := by decide
theorem test_decode_chainx_receive :
    decode 0b00000000000000000000000010010001 = .ok (.chainx .senc .receive .encode .context) := by decide
theorem test_decode_chain : decode 0b00000000000000000000000001010010 = .ok (.chain .senc true) := by decide
theorem test_decode_cmacsk : decode 0b00000000000000000000000000010011 = .ok (.cmacsk .senc) := by decide
theorem test_decode_cmac : decode 0b00000000000000000000000000100100 = .ok (.cmac .smac) := by decide
theorem test_decode_crc32 : decode 0b00000000000000000000000000000101 = .ok .crc32 := by decide
theorem test_decode_crc32a : decode 0b00000000000000000000000000000110 = .ok .crc32a := by decide
theorem test_decode_crc32v : decode 0b00000000000000000000000000000111 = .ok .crc32v := by decide
theorem test_decode_crc16 : decode 0b00000000000000000000000000001000 = .ok .crc16 := by decide
theorem test_decode_crc16a : decode 0b00000000000000000000000000001001 = .ok .crc16a := by decide
theorem test_decode_crc16v : decode 0b00000000000000000000000000001010 = .ok .crc16v := by decide
theorem test_decode_clriv : decode 0b00000000000000000000000000001011 = .ok .clriv := by decide
theorem test_decode_clrsess : decode 0b00000000000000000000000000001100 = .ok .clrsess := by decide
theorem test_decode_clrctx : decode 0b00000000000000000000000000001101 = .ok .clrctx := by decide

/-- The words of V-E1 to V-E5 and of V-CX5, and one with bit 31 set, are no commands. -/
theorem test_decode_rejects :
    decode 0x0000000E = .error .reservedOp ∧ decode 0x0000000F = .error .reservedOp ∧
    decode 0x00000031 = .error .reservedKeySel ∧ decode 0x00000015 = .error .reservedBits ∧
    decode 0x000000C2 = .error .reservedBits ∧ decode 0x0000001B = .error .reservedBits ∧
    decode 0x80000000 = .error .reservedBits := by decide

theorem test_decodeTableWord :
    decodeTableWord 32 0xC1 = some (.chainx .static .send .encode .context) ∧
    decodeTableWord 8 0x0D = some .clrctx ∧ decodeTableWord 32 0x0E = none := by decide

/-! ### Small states -/

/-- Reset, with CTRL, LEN and the first bytes of DBUF as given. -/
def small (ctrl : Word) (len : Nat) (data : List Byte) : State :=
  { State.reset with ctrl := ctrl, len := BitVec.ofNat 16 len, dbuf := memStoreBytes [] 0 data }

/-- A 16-byte register with the given first bytes. -/
def blk (bs : List Byte) : BlockReg := setPrefix zeroBlock bs

/-- A key register with the given first bytes. -/
def keyBytes (bs : List Byte) : KeyBytes := setPrefix zeroKey bs

/-- Does the step that performs the word `w` answer a state as expected? -/
def stepWord (w : Nat) (s : State) (expected : State → Bool) : Bool :=
  match step (s.withFetchWord 32 w) with
  | .next t => expected t
  | .fault _ => false
  | .refused _ => false

/-- "123456789". -/
def nineDigits : List Byte := [0x31, 0x32, 0x33, 0x34, 0x35, 0x36, 0x37, 0x38, 0x39]

/-- The key KD of spec/95_test_vectors.md. -/
def desKey : List Byte := [0x01, 0x23, 0x45, 0x67, 0x89, 0xab, 0xcd, 0xef]

/-- The first block of its data PD. -/
def desData : List Byte := [0x4e, 0x6f, 0x77, 0x20, 0x69, 0x73, 0x20, 0x74]

/-- The key K of spec/95_test_vectors.md. -/
def aesKey : List Byte :=
  [0x2b, 0x7e, 0x15, 0x16, 0x28, 0xae, 0xd2, 0xa6, 0xab, 0xf7, 0x15, 0x88, 0x09, 0xcf, 0x4f, 0x3c]

/-! ### One step of each command (spec/95_test_vectors.md) -/

/-- V-CX1. -/
theorem test_nop : stepWord 0x00 { small 0 0 [] with status := 0x41 } (fun t => t.status == 0) = true := by
  decide

/-- V-CH9: Enc(K, block) into DBUF and XIV, IV kept. -/
theorem test_chainx_external :
    stepWord 0x1C1
      { small 3 16 [0xa5, 0x5a, 0x00, 0x11, 0x22, 0x33, 0x01, 0, 0, 0, 0, 0, 0, 0, 0, 0] with
        key := keyBytes aesKey, iv := Vector.replicate 16 0xaa }
      (fun t =>
        let out := [0x1d, 0xd2, 0xee, 0x6e, 0x5b, 0x7a, 0x46, 0xe1, 0xe9, 0xea, 0x63, 0x8b, 0x8f, 0xe9, 0x7d, 0x33]
        dbufRead t 0 16 == out && t.xiv.toList == out && t.iv == Vector.replicate 16 0xaa) = true := by
  decide +kernel

/-- V-D40-8: under D40 IV is zeroed and XIV is used as the host left it. -/
theorem test_chainx_d40 :
    stepWord 0x1C1
      { small 0x10 8 desData with
        key := keyBytes desKey, iv := Vector.replicate 16 0xaa, xiv := Vector.replicate 16 0x55 }
      (fun t =>
        let out := [0xf9, 0x82, 0x81, 0xc8, 0x9f, 0xbe, 0xce, 0x8b]
        dbufRead t 0 8 == out && t.iv == zeroBlock && t.xiv.toList == out ++ List.replicate 8 0x55) = true := by
  decide +kernel

/-- The 2K3DES row of section 2.2, its first block. -/
theorem test_chain_tdes2 :
    stepWord 0x42
      { small 1 8 desData with key := keyBytes (desKey ++ [0xfe, 0xdc, 0xba, 0x98, 0x76, 0x54, 0x32, 0x10]) }
      (fun t =>
        let out := [0xd8, 0x0a, 0x0d, 0x8b, 0x2b, 0xae, 0x5e, 0x4e]
        dbufRead t 0 8 == out && t.iv == blk out && t.status == 0) = true := by
  decide +kernel

/-- V-D40-1, its first block: enc=1 is forced to Decode and IV is zeroed first. -/
theorem test_chain_d40 :
    stepWord 0x42
      { small 0x10 8 desData with key := keyBytes desKey, iv := blk (List.replicate 8 0x11) }
      (fun t => dbufRead t 0 8 == [0xa4, 0x16, 0x14, 0x3d, 0x92, 0x43, 0x70, 0x4c]) = true := by
  decide +kernel

/-- V-CM1. -/
theorem test_cmacsk_aes :
    stepWord 0x23 { small 3 0 [] with skmac := keyBytes aesKey }
      (fun t =>
        t.sk1.toList == [0xfb, 0xee, 0xd6, 0x18, 0x35, 0x71, 0x33, 0x66, 0x7c, 0x85, 0xe0, 0x8f, 0x72, 0x36, 0xa8,
          0xde] &&
        t.sk2.toList == [0xf7, 0xdd, 0xac, 0x30, 0x6a, 0xe2, 0x66, 0xcc, 0xf9, 0x0b, 0xc1, 0x1e, 0xe4, 0x6d, 0x51,
          0x3b]) = true := by
  decide +kernel

/-- V-CM11: the D40 reset of IV, and no length check (V-CM13). -/
theorem test_cmacsk_d40 :
    stepWord 0x23 { small 0x10 1025 [] with skmac := keyBytes desKey, iv := Vector.replicate 16 0x77 }
      (fun t =>
        t.iv == zeroBlock && t.sk1 == blk [0xab, 0xa8, 0x9f, 0xee, 0x40, 0xd0, 0x7a, 0x01] &&
        t.sk2 == blk [0x57, 0x51, 0x3f, 0xdc, 0x81, 0xa0, 0xf4, 0x19]) = true := by
  decide +kernel

/-- V-CM10: under D40 the main pass is in Decode, the subkeys are not. -/
theorem test_cmac_d40 :
    stepWord 0x24 { small 0x10 8 desData with skmac := keyBytes desKey, iv := blk [1, 2, 3, 4, 5, 6, 7, 8] }
      (fun t =>
        t.iv == blk [0xf2, 0x09, 0x02, 0x24, 0x1f, 0x02, 0x1f, 0x43] &&
        t.sk1 == blk [0xab, 0xa8, 0x9f, 0xee, 0x40, 0xd0, 0x7a, 0x01]) = true := by
  decide +kernel

/-- V-CM5, the DES row: 7 bytes take the `sk2` branch. -/
theorem test_cmac_padded :
    stepWord 0x24 { small 0 7 desData with skmac := keyBytes desKey }
      (fun t => t.iv == blk [0xec, 0xb6, 0x1b, 0x6c, 0x08, 0xe7, 0xee, 0xe6]) = true := by
  decide +kernel

/-- V-CRC1. -/
theorem test_crc32 :
    stepWord 0x05 (small 0 9 nineDigits) (fun t => t.crcr == 0x340BC6D9 && t.status == 0 && t.len == 9) = true := by
  decide +kernel

/-- V-CRC17. -/
theorem test_crc32_lenRange :
    stepWord 0x05 (small 0 1025 []) (fun t => t.status == 0x31 && t.crcr == 0) = true := by
  decide +kernel

/-- V-CRC3. -/
theorem test_crc32a :
    stepWord 0x06 (small 0 5 [1, 2, 3, 4, 5]) (fun t =>
      dbufRead t 0 9 == [1, 2, 3, 4, 5, 0x0B, 0x66, 0xF4, 0xB8] && t.len == 9 && t.crcr == 0xB8F4660B) = true := by
  decide +kernel

/-- V-CRC15. -/
theorem test_crc32a_lenRange :
    stepWord 0x06 (small 0 1021 []) (fun t => t.status == 0x31 && t.len == 1021 && t.dbuf == []) = true := by
  decide +kernel

/-- V-CRC6 and V-CRC7. -/
theorem test_crc32v :
    stepWord 0x07 (small 0 5 [1, 2, 3, 4, 5, 0x0B, 0x66, 0xF4, 0xB8]) (fun t => t.status == 0x2) = true ∧
    stepWord 0x07 (small 0 5 [0, 2, 3, 4, 5, 0x0B, 0x66, 0xF4, 0xB8])
      (fun t => t.status == 0x0 && t.crcr == 0x85944FBB) = true := by
  decide +kernel

/-- V-CRC9. -/
theorem test_crc16 : stepWord 0x08 (small 0 2 [0, 0]) (fun t => t.crcr == 0x1EA0) = true := by decide +kernel

/-- V-CRC10. -/
theorem test_crc16a :
    stepWord 0x09 (small 0 2 [0x50, 0]) (fun t =>
      dbufRead t 0 4 == [0x50, 0x00, 0x57, 0xCD] && t.len == 4 && t.crcr == 0xCD57) = true := by
  decide +kernel

/-- V-CRC12. -/
theorem test_crc16v :
    stepWord 0x0A (small 0 2 [0x50, 0, 0x57, 0xCD]) (fun t => t.status == 0x2 && t.len == 2) = true := by
  decide +kernel

/-- V-CX2. -/
theorem test_clriv :
    stepWord 0x0B { small 0 0 [] with iv := Vector.replicate 16 0xb1, xiv := Vector.replicate 16 0x55 }
      (fun t => t.iv == zeroBlock && t.xiv == Vector.replicate 16 0x55) = true := by
  decide +kernel

/-- V-CX3. -/
theorem test_clrsess :
    stepWord 0x0C
      { small 0x33 7 [] with skenc := Vector.replicate 24 0x11, key := Vector.replicate 24 0x22 }
      (fun t => t.ctrl == 0x03 && t.skenc == zeroKey && t.key == Vector.replicate 24 0x22 && t.len == 7) = true := by
  decide +kernel

/-- V-CX4. -/
theorem test_clrctx :
    stepWord 0x0D { small 0x03 7 [] with key := Vector.replicate 24 0x22 }
      (fun t => t.ctrl == 0 && t.key == zeroKey && t.len == 7) = true := by
  decide +kernel

/-- V-E1, V-E6, V-E9, V-E10, V-E11: the codes and their order. -/
theorem test_errorCodes :
    stepWord 0x0E (small 3 0 []) (fun t => t.status == 0x11) = true ∧
    stepWord 0xC1 (small 5 0 []) (fun t => t.status == 0x21) = true ∧
    stepWord 0xC1 (small 3 12 []) (fun t => t.status == 0x41) = true ∧
    stepWord 0x42 (small 5 12 []) (fun t => t.status == 0x21) = true ∧
    stepWord 0x31 (small 5 0 []) (fun t => t.status == 0x11) = true := by
  decide +kernel

/-! ### Bus accesses (spec/20_memory.md R102, R103, R105) -/

/-- A byte read at 0x401 and a word read at 0x402 are BusError (section 2.6). -/
theorem test_busError :
    step (State.reset.setPending [.read 1 0x401]) = .fault (.busError 0x401) ∧
    step (State.reset.setPending [.read 4 0x402]) = .fault (.busError 0x402) := by
  constructor <;> rfl

/-- A word read at 0x014 returns 0; program P1 writes K's first word as 0x16157e2b. -/
theorem test_window :
    State.reset.readWord 0x014 = 0 ∧
    { State.reset with key := keyBytes aesKey }.readWord 0x080 = 0x16157e2b ∧
    (State.reset.writeWord 0x080 0x16157e2b).key = keyBytes [0x2b, 0x7e, 0x15, 0x16] := by
  decide +kernel

/-! ### Witnesses: for each statement with hypotheses, a state and operands that meet them, at the bounds of
their ranges -/

theorem witness_DecodeEncodeRoundTrip :
    (Instr.chainx .smac .send .encode .external).wf = true ∧ Instr.crc16v.wf = true := by decide

theorem witness_EncodeDecodeRoundTrip :
    decode 0x000001E1 = .ok (.chainx .smac .send .encode .external) ∧ decode 0x0000000D = .ok .clrctx := by decide

/-- An illegal word and a legal one. -/
theorem witness_IllegalWordSetsOnlyStatus :
    (State.reset.setPending [commandEvent 0xFFFFFFFF]).pending = commandEvent 0xFFFFFFFF :: [] ∧
    legal 0xFFFFFFFF = false ∧
    (State.reset.setPending [commandEvent 0x1E1]).pending = commandEvent 0x1E1 :: [] ∧ legal 0x1E1 = true :=
  ⟨rfl, by decide, rfl, by decide⟩

theorem witness_StepRunsDecodedCommand :
    (State.reset.setPending [commandEvent 0x24]).pending = commandEvent 0x24 :: [] ∧
    decode 0x24 = .ok (.cmac .smac) := ⟨rfl, by decide⟩

theorem witness_IdleStepChangesNothing : State.reset.pending = [] := rfl

/-- The first and the last word of the window. -/
theorem witness_ReadsHaveNoSideEffects :
    ((State.reset.setPending [rd 0x000]).pending = rd 0x000 :: [] ∧ wordOffset 0x000) ∧
    ((State.reset.setPending [rd 0x7FC]).pending = rd 0x7FC :: [] ∧ wordOffset 0x7FC) :=
  ⟨⟨rfl, by unfold wordOffset; omega⟩, ⟨rfl, by unfold wordOffset; omega⟩⟩

/-- A byte read, a misaligned write and the first offset past the window. -/
theorem witness_StepFaultsExactlyOnRefusedAccess :
    ¬ (1 = 4 ∧ wordOffset 0x401) ∧ ¬ (4 = 4 ∧ wordOffset 0x402) ∧ ¬ (4 = 4 ∧ wordOffset 0x800) := by
  unfold wordOffset; omega

/-- A read, a command, a write to the last word and a reset. -/
theorem witness_SafeProgramNeverStops :
    hostSafe (State.reset.setPending [rd 0x7FC, commandEvent 0xC1, wr 0x7FC 1, .reset]) := by
  unfold hostSafe; decide

/-- CTRL, LEN, the first and the last word of a byte-array register, and a reserved offset. -/
theorem witness_HostWriteStoresOneWord :
    ∀ a ∈ [0x000, 0x00C, 0x020, 0x04C, 0x0D4, 0x400, 0x7FC, 0x014],
      (State.reset.setPending [wr a 0xFFFFFFFF]).pending = wr a 0xFFFFFFFF :: [] ∧ wordOffset a ∧ a ≠ 0x004 := by
  intro a ha
  simp only [List.mem_cons, List.not_mem_nil, or_false] at ha
  refine ⟨rfl, ?_⟩
  unfold wordOffset
  omega

theorem witness_HostWriteStoresOneWord_arrays :
    arrayOffset 0x020 ∧ arrayOffset 0x04C ∧ arrayOffset 0x080 ∧ arrayOffset 0x094 ∧ arrayOffset 0x0D4 ∧
    arrayOffset 0x400 ∧ arrayOffset 0x7FC ∧ ¬ arrayOffset 0x050 ∧ ¬ arrayOffset 0x098 := by
  unfold arrayOffset; omega

/-- The bounds of the reserved and of the read-only ranges; no offset is in both clauses of a read and a write. -/
theorem witness_ReservedOffsetsIgnoreWritesAndReadZero :
    (State.reset.setPending [wr 0x3FC 1]).pending = wr 0x3FC 1 :: [] ∧ wordOffset 0x3FC ∧ reservedOffset 0x3FC ∧
    reservedOffset 0x014 ∧ reservedOffset 0x01C ∧ readOnlyOffset 0x008 ∧ readOnlyOffset 0x010 ∧
    readOnlyOffset 0x06C ∧ (State.reset.setPending [rd 0x004]).pending = rd 0x004 :: [] ∧ wordOffset 0x004 := by
  refine ⟨rfl, ?_, ?_, ?_, ?_, ?_, ?_, ?_, rfl, ?_⟩ <;>
    first | (unfold wordOffset; omega) | (unfold reservedOffset; omega) | (unfold readOnlyOffset; omega)

/-- The last byte of the last word of each kind of register. -/
theorem witness_ArrayWordsAreLittleEndian : 3 < 4 ∧ 5 < 6 ∧ 255 < 256 := by decide

/-- Five bytes that end at the buffer's last word. -/
theorem witness_LoadBytesProgramFillsBuffer :
    (State.reset.setPending (ldb (0x400 + 1016) [1, 2, 3, 4, 5])).pending =
      ldb (0x400 + 1016) [1, 2, 3, 4, 5] ∧ 1016 % 4 = 0 ∧ 1016 + 5 ≤ 1024 ∧ 1024 + 0 ≤ 1024 := by
  refine ⟨rfl, ?_, ?_, ?_⟩ <;> decide

theorem witness_ResetRegistersReadZero : wordOffset 0x3FC ∧ 0x3FC < 0x400 ∧ wordOffset 0x000 := by
  unfold wordOffset; omega

theorem witness_ResetEventClearsRegisters :
    ((small 3 9 nineDigits).setPending [.reset, rd 0]).pending = .reset :: [rd 0] := rfl

theorem witness_invariant_reset : State.reset.Inv := by
  refine ⟨by decide, by decide, ?_, ?_⟩
  · exact List.Pairwise.nil
  · intro c hc; cases hc

theorem witness_StepKeepsInvariant :
    (small 0x33 9 [1, 2]).Inv ∧ step (small 0x33 9 [1, 2]) = .next (small 0x33 9 [1, 2]) := by
  refine ⟨⟨by decide, by decide, ?_, ?_⟩, rfl⟩
  · decide
  · decide

theorem witness_ReservedBitsReadZero : ({ small 0x37 0xFFFF [] with status := 0x41 } : State).Inv := by
  refine ⟨by decide, by decide, ?_, ?_⟩
  · decide
  · decide

/-- Each code, and no error at the largest LEN each check accepts. -/
theorem witness_CheckOrderDecidesStatus :
    firstError (.chainx .reserved .send .encode .context) (small 7 0xFFFF []) = some .illegalCmd ∧
    firstError (.cmac .static) (small 4 1025 []) = some .badAlg ∧
    firstError .crc32a (small 0 1021 []) = some .lenRange ∧
    firstError (.chain .static true) (small 3 1016 []) = some .lenAlign ∧
    firstError .crc32a (small 7 1020 []) = none ∧ firstError (.chain .static true) (small 0 1016 []) = none := by
  decide

/-- Each code as a word written to CMD, and the words that pass at the largest LEN. -/
theorem witness_CommandWordChecksInOrder :
    ((small 7 1021 []).setPending [commandEvent 0x06]).pending = commandEvent 0x06 :: [] ∧
    checkWord 0x1E (small 7 0xFFFF []) = some .illegalCmd ∧ checkWord 0x24 (small 4 1025 []) = some .badAlg ∧
    checkWord 0x06 (small 7 1021 []) = some .lenRange ∧ checkWord 0x0A (small 7 1023 []) = some .lenRange ∧
    checkWord 0xC1 (small 3 1016 []) = some .lenAlign ∧ checkWord 0x06 (small 7 1020 []) = none ∧
    checkWord 0xC1 (small 0 1016 []) = none ∧ checkWord 0x03 (small 3 0xFFFF []) = none :=
  ⟨rfl, by decide⟩

theorem witness_CrcComputeResult : (small 0 0 []).len.toNat ≤ 1024 ∧ (small 0 1024 []).len.toNat ≤ 1024 := by decide

theorem witness_CrcAppendResult :
    (small 0 1020 []).len.toNat + 4 ≤ 1024 ∧ (small 0 1022 []).len.toNat + 2 ≤ 1024 := by decide

theorem witness_CrcVerifyResult :
    (small 0 1020 []).len.toNat + 4 ≤ 1024 ∧ (small 0 1022 []).len.toNat + 2 ≤ 1024 := by decide

theorem witness_AppendThenVerifyMatches :
    ((small 0 1020 []).setPending [command .crc32a, setlen 1020, command .crc32v]).pending =
      [command .crc32a, setlen (small 0 1020 []).len.toNat, command .crc32v] ∧
    (small 0 1020 []).len.toNat + 4 ≤ 1024 ∧
    ((small 0 1022 []).setPending [command .crc16a, setlen 1022, command .crc16v]).pending =
      [command .crc16a, setlen (small 0 1022 []).len.toNat, command .crc16v] ∧
    (small 0 1022 []).len.toNat + 2 ≤ 1024 := by
  refine ⟨rfl, ?_, rfl, ?_⟩ <;> decide

theorem witness_ResidueIsZero :
    (small 0 0 []).fitted = .intended ∧ (small 0 0 []).len.toNat + 4 ≤ 1024 ∧
    (small 0 1022 []).fitted = .intended ∧ (small 0 1022 []).len.toNat + 2 ≤ 1024 := by decide

/-- Two states alike in LEN and DBUF and different in CTRL. -/
theorem witness_CrcReadsOnlyLenAndData :
    Instr.crc32v ∈ [Instr.crc32, .crc32a, .crc32v, .crc16, .crc16a, .crc16v] ∧
    (small 7 2 [1, 2]).len = (small 0 2 [1, 2]).len ∧ (small 7 2 [1, 2]).fitted = (small 0 2 [1, 2]).fitted ∧
    ∀ j, dbufByte (small 7 2 [1, 2]) j = dbufByte (small 0 2 [1, 2]) j :=
  ⟨by decide, rfl, rfl, fun _ => rfl⟩

/-- The least and the greatest LEN of a chained transform, for both block lengths. -/
theorem readyToChain_witness :
    ReadyToChain (small 0 0 []) .static .des zeroKey ∧ ReadyToChain (small 0x11 1024 []) .senc .tdes2 zeroKey ∧
    ReadyToChain (small 0x33 1024 []) .smac .aes zeroKey ∧ ReadyToChain (small 2 8 desData) .static .tdes3 zeroKey :=
  ⟨⟨rfl, rfl, by decide, by decide⟩, ⟨rfl, rfl, by decide, by decide⟩, ⟨rfl, rfl, by decide, by decide⟩,
    ⟨rfl, rfl, by decide, by decide⟩⟩

/-- Blocks 0 and 63 lie in 1024 bytes of 16-byte blocks. -/
theorem witness_ChainxOutputBlocks :
    ReadyToChain (small 0x33 1024 []) .smac .aes zeroKey ∧
    (0 + 1) * blockLen .aes ≤ (small 0x33 1024 []).len.toNat ∧
    (63 + 1) * blockLen .aes ≤ (small 0x33 1024 []).len.toNat :=
  ⟨readyToChain_witness.2.2.1, by decide, by decide⟩

theorem witness_ChainxIvWriteBack : ReadyToChain (small 0x11 1024 []) .senc .tdes2 zeroKey :=
  readyToChain_witness.2.1

theorem witness_ChainxFrame :
    ReadyToChain (small 0x33 1024 []) .smac .aes zeroKey ∧ (small 0x33 1024 []).len.toNat ≤ 1024 ∧
    1023 < (small 0x33 1024 []).len.toNat :=
  ⟨readyToChain_witness.2.2.1, by decide, by decide⟩

theorem witness_ChainIsChainxResolved : ReadyToChain (small 0x11 1024 []) .senc .tdes2 zeroKey :=
  readyToChain_witness.2.1

theorem witness_ChainxOfEmptyData :
    ReadyToChain (small 0 0 []) .static .des zeroKey ∧ (small 0 0 []).len = 0 :=
  ⟨readyToChain_witness.1, rfl⟩

theorem witness_D40ChainUsesDecBothWays :
    ReadyToChain (small 0x11 1024 []) .senc .tdes2 zeroKey ∧ (small 0x11 1024 []).chan = .d40 ∧
    (0 + 1) * blockLen .tdes2 ≤ (small 0x11 1024 []).len.toNat ∧
    (127 + 1) * blockLen .tdes2 ≤ (small 0x11 1024 []).len.toNat :=
  ⟨readyToChain_witness.2.1, by decide, by decide, by decide⟩

/-- DES under the zero key, on a D40 channel. -/
theorem witness_D40PeerInvertsHost :
    ReadyToChain (small 0x10 8 desData) .static .des zeroKey ∧ (small 0x10 8 desData).chan = .d40 ∧
    (∀ b : List Byte, b.length = blockLen .des →
      encBlock (small 0x10 8 desData).fitted .des (zeroKey.toList.take (keyLen .des))
        (decBlock (small 0x10 8 desData).fitted .des (zeroKey.toList.take (keyLen .des)) b) = b) ∧
    (∀ b : List Byte, b.length = blockLen .des →
      decBlock (small 0x10 8 desData).fitted .des (zeroKey.toList.take (keyLen .des))
        (encBlock (small 0x10 8 desData).fitted .des (zeroKey.toList.take (keyLen .des)) b) = b) :=
  ⟨⟨rfl, rfl, by decide, by decide⟩, by decide, fun b hb => desEnc_desDec _ b hb, fun b hb => desDec_desEnc _ b hb⟩

theorem witness_D40CommandsIgnoreIv :
    (small 0x10 8 desData).chan = .d40 ∧ usesCipher (.chain .static true) = true ∧
    firstError (.chain .static true) (small 0x10 8 desData) = none := by decide

/-- DES under the zero key: Dec inverts Enc and Enc inverts Dec, on every block. -/
theorem witness_ChainxRoundTrip :
    ReadyToChain (small 0 8 desData) .static .des zeroKey ∧
    (∀ b : List Byte, b.length = blockLen .des →
      decBlock (small 0 8 desData).fitted .des (zeroKey.toList.take (keyLen .des))
        (encBlock (small 0 8 desData).fitted .des (zeroKey.toList.take (keyLen .des)) b) = b) ∧
    (∀ b : List Byte, b.length = blockLen .des →
      encBlock (small 0 8 desData).fitted .des (zeroKey.toList.take (keyLen .des))
        (decBlock (small 0 8 desData).fitted .des (zeroKey.toList.take (keyLen .des)) b) = b) :=
  ⟨⟨rfl, rfl, by decide, by decide⟩, fun b hb => desDec_desEnc _ b hb, fun b hb => desEnc_desDec _ b hb⟩

/-- Two blocks of zeros, split after the first: the second state is the first with LEN = 8 and the IV the first
command left. -/
theorem witness_ChainingAcrossCommands :
    ∃ s2 t1 : State,
      ((∃ d m, Instr.chainx .static .send .encode .context = .chainx .static d m .context) ∨
        ∃ enc, Instr.chainx .static .send .encode .context = .chain .static enc) ∧
      ReadyToChain (small 0 16 (zeroBytes 16)) .static .des zeroKey ∧ (small 0 16 (zeroBytes 16)).chan ≠ .d40 ∧
      (small 0 16 (zeroBytes 16)).len.toNat = 8 + 8 ∧ 8 % blockLen .des = 0 ∧
      exec (.chainx .static .send .encode .context) ((small 0 16 (zeroBytes 16)).setLen (BitVec.ofNat 16 8)) =
        .next t1 ∧
      s2.keyReg .static = some zeroKey ∧ s2.ctrl = (small 0 16 (zeroBytes 16)).ctrl ∧
      s2.fitted = (small 0 16 (zeroBytes 16)).fitted ∧ s2.iv = t1.iv ∧ s2.len.toNat = 8 ∧
      ∀ j, j < 8 → dbufByte s2 j = dbufByte (small 0 16 (zeroBytes 16)) (8 + j) := by
  have h : ReadyToChain ((small 0 16 (zeroBytes 16)).setLen (BitVec.ofNat 16 8)) .static .des zeroKey :=
    ⟨rfl, rfl, by decide, by decide⟩
  obtain ⟨t1, h1⟩ : ∃ t1, exec (.chainx .static .send .encode .context)
      ((small 0 16 (zeroBytes 16)).setLen (BitVec.ofNat 16 8)) = .next t1 := ⟨_, exec_chainx_ready _ _ _ h⟩
  refine ⟨(small 0 8 (zeroBytes 8)).setIv t1.iv, t1, Or.inl ⟨_, _, rfl⟩, ⟨rfl, rfl, by decide, by decide⟩,
    by decide, by decide, by decide, h1, rfl, rfl, rfl, rfl, rfl, ?_⟩
  intro j hj
  rw [dbufByte_setIv]
  revert j
  decide

theorem witness_Ecb1ProgramEnciphersOneBlock :
    ((small 3 16 (zeroBytes 16)).setPending (ecb1 .senc)).pending = ecb1 .senc ∧
    ReadyToChain ((small 3 16 (zeroBytes 16)).setPending (ecb1 .senc)) .senc .aes zeroKey ∧
    ((small 3 16 (zeroBytes 16)).setPending (ecb1 .senc)).len.toNat = blockLen .aes :=
  ⟨rfl, ⟨rfl, rfl, by decide, by decide⟩, by decide⟩

theorem witness_DoublingShiftsAcrossBytes : (zeroBytes 8).length = 8 ∧ (zeroBytes 16).length = 16 ∧ 15 < 16 := by
  decide

/-- No data, one whole block, one byte less and one byte more. -/
theorem witness_PaddingFillsLastBlock :
    (zeroBytes 16).length = 16 ∧ ([] : List Byte).length = 0 ∧
    ((zeroBytes 16).length ≠ 0 ∧ (zeroBytes 16).length % 16 = 0) ∧ (zeroBytes 15).length % 16 ≠ 0 ∧
    (zeroBytes 17).length % 16 ≠ 0 := by decide

theorem witness_CmacskResult :
    (small 0x13 0xFFFF []).keyReg .smac = some zeroKey ∧ (small 0x13 0xFFFF []).alg = some .aes := ⟨rfl, rfl⟩

theorem witness_CmacResult :
    ReadyToMac (small 0x13 0 []) .smac .aes zeroKey ∧ ReadyToMac (small 0 1024 []) .static .des zeroKey :=
  ⟨⟨rfl, rfl, by decide⟩, ⟨rfl, rfl, by decide⟩⟩

theorem witness_CmacIsStandardCmac :
    ReadyToMac (small 0x33 1023 []) .senc .aes zeroKey ∧ (small 0x33 1023 []).chan ≠ .d40 ∧
    (small 0x33 1023 []).iv.toList.take (blockLen .aes) = zeroBytes (blockLen .aes) :=
  ⟨⟨rfl, rfl, by decide⟩, by decide, by decide⟩

/-- Two states with the same data and different CHAN and LAST_IV, two key selects. -/
theorem witness_CmacDependsOnlyOnKeyAndData :
    ReadyToMac (small 0x33 2 [1, 2]) .senc .aes zeroKey ∧
    ReadyToMac ({ small 0x03 2 [1, 2, 3] with lastIv := Vector.replicate 16 1 } : State) .static .aes zeroKey ∧
    (small 0x33 2 [1, 2]).chan ≠ .d40 ∧ (small 0x03 2 [1, 2, 3]).chan ≠ .d40 ∧
    (small 0x03 2 [1, 2, 3]).fitted = (small 0x33 2 [1, 2]).fitted ∧
    (small 0x33 2 [1, 2]).iv.toList.take (blockLen .aes) = zeroBytes (blockLen .aes) ∧
    (small 0x03 2 [1, 2, 3]).len = (small 0x33 2 [1, 2]).len ∧
    ∀ j, j < (small 0x33 2 [1, 2]).len.toNat → dbufByte (small 0x03 2 [1, 2, 3]) j = dbufByte (small 0x33 2 [1, 2]) j :=
  ⟨⟨rfl, rfl, by decide⟩, ⟨rfl, rfl, by decide⟩, by decide, by decide, rfl, by decide, rfl, by decide⟩

/-- Every register that CLRCTX writes, changed by it. -/
theorem witness_RegistersWrittenOnlyByTheirCommands :
    ∃ s t : State, exec .clrctx s = .next t ∧ t.ctrl ≠ s.ctrl ∧ t.iv ≠ s.iv ∧ t.lastIv ≠ s.lastIv ∧ t.sk1 ≠ s.sk1 ∧
      t.sk2 ≠ s.sk2 ∧ t.key ≠ s.key ∧ t.skenc ≠ s.skenc ∧ t.skmac ≠ s.skmac := by
  refine ⟨{ small 0x33 9 [] with
      iv := Vector.replicate 16 1, lastIv := Vector.replicate 16 1, sk1 := Vector.replicate 16 1,
      sk2 := Vector.replicate 16 1, key := Vector.replicate 24 1, skenc := Vector.replicate 24 1,
      skmac := Vector.replicate 24 1 }, _, rfl, ?_⟩
  decide +kernel

/-- LEN and CRCR changed by CRC32A, and XIV by CHAINX with the external IV. -/
theorem witness_RegistersWrittenOnlyByTheirCommands_crc_chain :
    stepWord 0x06 (small 0 1 [7]) (fun t => t.len != 1 && t.crcr != 0) = true ∧
    stepWord 0x1C1 (small 0 8 desData) (fun t => t.xiv != zeroBlock) = true := by
  decide +kernel

/-- The bytes after the data, at the first and the last byte that CRC16A writes. -/
theorem witness_DbufWrittenOnlyWhereAllowed :
    ∃ t, exec .crc16a (small 0 0 [0, 0, 0]) = .next t ∧ dbufByte t 0 ≠ dbufByte (small 0 0 [0, 0, 0]) 0 ∧
      dbufByte t 1 ≠ dbufByte (small 0 0 [0, 0, 0]) 1 :=
  ⟨_, rfl, by decide +kernel, by decide +kernel⟩

/-- A byte of the data, written by a chained transform. -/
theorem witness_DbufWrittenOnlyWhereAllowed_chained :
    stepWord 0xC1 (small 0 8 (zeroBytes 9)) (fun t => dbufByte t 7 != 0 && dbufByte t 8 == 0) = true := by
  decide +kernel

theorem witness_ChannelKindsButD40Alike :
    (small 0x03 0 []).chan ≠ .d40 ∧ ((small 0x03 0 []).setCtrl 0x33).chan ≠ .d40 ∧
    (0x33 : Word) &&& ~~~(0x30 : Word) = (small 0x03 0 []).ctrl &&& ~~~(0x30 : Word) := by decide

theorem witness_KeyTailsAreNeverRead :
    (small 0 8 desData).alg = some .des ∧
    (keyBytes (zeroBytes 8 ++ [1])).toList.take (keyLen .des) = (small 0 8 desData).key.toList.take (keyLen .des) ∧
    zeroKey.toList.take (keyLen .des) = (small 0 8 desData).skenc.toList.take (keyLen .des) := by decide +kernel

theorem witness_IntendedDecInvertsEnc :
    desKey.length = keyLen .des ∧ desData.length = blockLen .des ∧ aesKey.length = keyLen .aes ∧
    (zeroBytes 16).length = blockLen .aes := by decide

theorem witness_CrcBytesAreLittleEndian : 3 < 4 ∧ 1 < 2 := by decide

/-- A state with the invariant whose CTRL has every stored bit set. -/
theorem witness_ClrctxResult : (small 0x37 9 [1, 2]).Inv := by
  refine ⟨by decide, by decide, ?_, ?_⟩ <;> decide
end

section
/-! PROOFS. The statements of spec/00_scope.md about the idle step (R24) and the residue of the CRC (R14, R15,
R188). -/

namespace Sys2Proof.Machine

/-! ## The step without a host event -/

/-- Settles O7: with no event on the host's list, `step` answers its argument. -/
theorem idleStepChangesNothing : Obligations.IdleStepChangesNothing := by
  intro s hidle
  simp only [step, hidle]

/-! ## The residue of the reflected CRC

A byte XORed onto the register's own low byte clears it, and a register whose low byte is clear is only shifted
by the eight bit steps. So feeding a register its own bytes, the lowest first, shifts it down to 0. -/

theorem crcBytes_append {w : Nat} (poly r : BitVec w) (as bs : List Byte) :
    crcBytes poly r (as ++ bs) = crcBytes poly (crcBytes poly r as) bs := by
  induction as generalizing r with
  | nil => rfl
  | cons a as ih => exact ih _

/-- The polynomial is not added while the bits that fall out are 0. -/
theorem crcSteps_of_low_zero {w : Nat} (poly : BitVec w) (n : Nat) (r : BitVec w)
    (h : ∀ i < n, r.getLsbD i = false) : crcSteps poly n r = r >>> n := by
  induction n generalizing r with
  | zero => simp [crcSteps]
  | succ n ih =>
    have hshift : ∀ i < n, (r >>> 1).getLsbD i = false := fun i hi => by
      simpa using h (1 + i) (by omega)
    rw [crcSteps, h 0 (by omega), if_neg Bool.false_ne_true, ih _ hshift, ← BitVec.shiftRight_add, Nat.add_comm]

/-- A register fed its own low byte is shifted by a byte. -/
theorem crcByte_own_byte {w : Nat} (poly r : BitVec w) : crcByte poly r (r.extractLsb' 0 8) = r >>> 8 := by
  have hlow : ∀ i < 8, (r ^^^ (r.extractLsb' 0 8).setWidth w).getLsbD i = false := fun i hi => by
    by_cases hw : i < w
    · simp [hi, hw]
    · simp [BitVec.getLsbD_of_ge _ _ (Nat.le_of_not_lt hw)]
  rw [crcByte, crcSteps_of_low_zero _ _ _ hlow]
  apply BitVec.eq_of_getLsbD_eq
  intro i hi
  simp

/-- A register fed with byte `i` of what it was before a shift by `i` bits is shifted by a byte more. -/
theorem crcByte_shiftRight {w : Nat} (poly c : BitVec w) (i : Nat) :
    crcByte poly (c >>> i) (c.extractLsb' i 8) = c >>> (i + 8) := by
  have hbyte : c.extractLsb' i 8 = (c >>> i).extractLsb' 0 8 := by
    apply BitVec.eq_of_getLsbD_eq
    intro j hj
    simp [hj]
  rw [hbyte, crcByte_own_byte, ← BitVec.shiftRight_add]

/-- A 32-bit register fed its own bytes ends at 0, whatever the polynomial. -/
theorem crcBytes_bytes32 (poly c : Word) : crcBytes poly c (bytes32 c) = 0 := by
  have h0 : crcByte poly c (c.extractLsb' 0 8) = c >>> 8 := crcByte_own_byte poly c
  simp only [bytes32, crcBytes, h0, crcByte_shiftRight]
  exact BitVec.ushiftRight_eq_zero (by decide)

/-- A 16-bit register fed its own bytes ends at 0, whatever the polynomial. -/
theorem crcBytes_bytes16 (poly c : BitVec 16) : crcBytes poly c (bytes16 c) = 0 := by
  have h0 : crcByte poly c (c.extractLsb' 0 8) = c >>> 8 := crcByte_own_byte poly c
  simp only [bytes16, crcBytes, h0, crcByte_shiftRight]
  exact BitVec.ushiftRight_eq_zero (by decide)

theorem jamCrc32_residue (bs : List Byte) : jamCrc32 (bs ++ bytes32 (jamCrc32 bs)) = 0 := by
  rw [jamCrc32, crcBytes_append, ← jamCrc32, crcBytes_bytes32]

theorem crcA_residue (bs : List Byte) : crcA (bs ++ bytes16 (crcA bs)) = 0 := by
  rw [crcA, crcBytes_append, ← crcA, crcBytes_bytes16]

/-! ## The CRC commands that are accepted -/

@[simp] theorem appendCrc_fitted (s : State) (c : List Byte) : (s.appendCrc c).fitted = s.fitted := rfl

/-- The data after an append: the old data, then the appended bytes. -/
theorem appendCrc_data (s : State) (c : List Byte) (h : s.lenNat + c.length ≤ Config.bufBytes) :
    (s.appendCrc c).data = s.data ++ c := by
  have hread : (s.appendCrc c).data = dbufRead (s.setDbuf s.lenNat c) 0 (s.lenNat + c.length) := by
    rw [State.data, appendCrc_lenNat s c h]
    rfl
  rw [hread, dbufRead_add, dbufRead_setDbuf_outside _ _ _ _ _ (by omega), Nat.zero_add,
    dbufRead_setDbuf_same _ _ _ h]
  rfl

theorem exec_crc32_ready {s : State} (h : s.lenNat ≤ Config.bufBytes) :
    exec .crc32 s = accepted (s.setCrcr s.dataCrc32) :=
  requireRoom_le _ h

theorem exec_crc16_ready {s : State} (h : s.lenNat ≤ Config.bufBytes) :
    exec .crc16 s = accepted (s.setCrcr (s.dataCrc16a.setWidth 32)) :=
  requireRoom_le _ h

theorem exec_crc32a_ready {s : State} (h : s.lenNat + 4 ≤ Config.bufBytes) :
    exec .crc32a s = accepted ((s.appendCrc (bytes32 s.dataCrc32)).setCrcr s.dataCrc32) :=
  requireRoom_le _ h

theorem exec_crc16a_ready {s : State} (h : s.lenNat + 2 ≤ Config.bufBytes) :
    exec .crc16a s = accepted ((s.appendCrc (bytes16 s.dataCrc16a)).setCrcr (s.dataCrc16a.setWidth 32)) :=
  requireRoom_le _ h

theorem dataCrc32_intended {s : State} (hf : s.fitted = .intended) : s.dataCrc32 = jamCrc32 s.data := by
  rw [State.dataCrc32, hf]
  rfl

theorem dataCrc16a_intended {s : State} (hf : s.fitted = .intended) : s.dataCrc16a = crcA s.data := by
  rw [State.dataCrc16a, hf]
  rfl

theorem dataCrc32_appendCrc {s : State} (hf : s.fitted = .intended) (h : s.lenNat + 4 ≤ Config.bufBytes) :
    (s.appendCrc (bytes32 s.dataCrc32)).dataCrc32 = 0 := by
  rw [dataCrc32_intended (by rwa [appendCrc_fitted]), appendCrc_data s (bytes32 _) h, dataCrc32_intended hf,
    jamCrc32_residue]

theorem dataCrc16a_appendCrc {s : State} (hf : s.fitted = .intended) (h : s.lenNat + 2 ≤ Config.bufBytes) :
    (s.appendCrc (bytes16 s.dataCrc16a)).dataCrc16a = 0 := by
  rw [dataCrc16a_intended (by rwa [appendCrc_fitted]), appendCrc_data s (bytes16 _) h, dataCrc16a_intended hf,
    crcA_residue]

/-- CRC32 after CRC32A (R188, first law). -/
theorem crc32_after_crc32a {s : State} (hf : s.fitted = .intended) (h : s.lenNat + 4 ≤ Config.bufBytes) :
    ∃ t u, exec .crc32a s = .next t ∧ exec .crc32 t = .next u ∧ u.crcr = 0 ∧ u.status = 0 := by
  have hlen : (s.appendCrc (bytes32 s.dataCrc32)).lenNat = s.lenNat + 4 := appendCrc_lenNat s _ h
  refine ⟨_, _, exec_crc32a_ready h, exec_crc32_ready ?_, dataCrc32_appendCrc hf h, rfl⟩
  simpa [hlen] using h

/-- CRC16 after CRC16A (R188, second law). -/
theorem crc16_after_crc16a {s : State} (hf : s.fitted = .intended) (h : s.lenNat + 2 ≤ Config.bufBytes) :
    ∃ t u, exec .crc16a s = .next t ∧ exec .crc16 t = .next u ∧ u.crcr = 0 ∧ u.status = 0 := by
  have hlen : (s.appendCrc (bytes16 s.dataCrc16a)).lenNat = s.lenNat + 2 := appendCrc_lenNat s _ h
  refine ⟨_, _, exec_crc16a_ready h, exec_crc16_ready ?_, ?_, rfl⟩
  · simpa [hlen] using h
  · exact congrArg (BitVec.setWidth 32) (dataCrc16a_appendCrc hf h)

/-- Settles O27: a register fed its own bytes ends at 0 (`jamCrc32_residue`, `crcA_residue`), and after an append
the data is the old data and then those bytes (`appendCrc_data`). -/
theorem residueIsZero : Obligations.ResidueIsZero :=
  fun _ hf => ⟨crc32_after_crc32a hf, crc16_after_crc16a hf⟩

end Sys2Proof.Machine
end

section
/-! PROOFS. The intended Dec inverts the intended Enc (spec/00_scope.md R13). -/

namespace Sys2Proof.Machine

/-! ## TDEA -/

theorem desEnc_length (key b : List Byte) : (desEnc key b).length = 8 := desBlock_length _ _

theorem desDec_length (key b : List Byte) : (desDec key b).length = 8 := desBlock_length _ _

/-- TDEA's three layers are undone from the outermost in. -/
theorem tdeaDec_tdeaEnc (k1 k2 k3 b : List Byte) (h : b.length = 8) :
    tdeaDec k1 k2 k3 (tdeaEnc k1 k2 k3 b) = b := by
  rw [tdeaDec, tdeaEnc, desDec_desEnc _ _ (desDec_length _ _), desEnc_desDec _ _ (desEnc_length _ _),
    desDec_desEnc _ _ h]

/-! ## AES-128: the layers of a round and their inverses -/

/-- The inverse S-box inverts the S-box, byte by byte. -/
theorem aesInvSub_aesSub : ∀ b : Byte, aesInvSub (aesSub b) = b := by decide +kernel

theorem map_aesInvSub_map_aesSub (s : List Byte) : (s.map aesSub).map aesInvSub = s := by
  simp [aesInvSub_aesSub, Function.comp_def]

theorem aesShiftRows_getD (s : List Byte) {i : Nat} (hi : i < 16) :
    (aesShiftRows s).getD i 0 = s.getD ((i + 4 * (i % 4)) % 16) 0 := by
  simp [aesShiftRows, hi]

theorem aesInvShiftRows_getD (s : List Byte) {i : Nat} (hi : i < 16) :
    (aesInvShiftRows s).getD i 0 = s.getD ((i + 12 * (i % 4)) % 16) 0 := by
  simp [aesInvShiftRows, hi]

theorem aesInvShiftRows_aesShiftRows (s : List Byte) (h : s.length = 16) :
    aesInvShiftRows (aesShiftRows s) = s := by
  apply List.ext_getElem (by simp [h])
  intro i hi hs
  have h16 : i < 16 := by omega
  have hsource : ((i + 12 * (i % 4)) % 16 + 4 * ((i + 12 * (i % 4)) % 16 % 4)) % 16 = i := by omega
  rw [← List.getD_eq_getElem _ 0 hi, ← List.getD_eq_getElem _ 0 hs, aesInvShiftRows_getD _ h16,
    aesShiftRows_getD _ (Nat.mod_lt _ (by decide)), hsource]

/-! ### MixColumns -/

theorem byteXor_left_comm (a b c : Byte) : a ^^^ (b ^^^ c) = b ^^^ (a ^^^ c) := by
  rw [← BitVec.xor_assoc, BitVec.xor_comm a b, BitVec.xor_assoc]

/-- Multiplication by x is linear. -/
theorem aesXtime_xor (a b : Byte) : aesXtime (a ^^^ b) = aesXtime a ^^^ aesXtime b := by
  simp only [aesXtime, BitVec.getLsbD_xor, BitVec.shiftLeft_xor_distrib]
  cases a.getLsbD 7 <;> cases b.getLsbD 7 <;>
    simp [BitVec.xor_assoc, BitVec.xor_comm, byteXor_left_comm]

/-- An output byte of InvMixColumns is linear in its column. -/
theorem aesInvMix_xor (a b c d a' b' c' d' : Byte) :
    aesInvMix (a ^^^ a') (b ^^^ b') (c ^^^ c') (d ^^^ d') = aesInvMix a b c d ^^^ aesInvMix a' b' c' d' := by
  simp only [aesInvMix, aesXtime_xor]
  ac_rfl

/-- What one byte of a column puts into the four bytes of the mixed column, unmixed again: in its own row the
byte, in each other row 0. All other powers of x times the byte cancel, before any reduction. -/
theorem aesInvMix_single (b : Byte) :
    aesInvMix (aesXtime b) b b (aesXtime b ^^^ b) = b ∧ aesInvMix (aesXtime b ^^^ b) (aesXtime b) b b = 0 ∧
    aesInvMix b (aesXtime b ^^^ b) (aesXtime b) b = 0 ∧ aesInvMix b b (aesXtime b ^^^ b) (aesXtime b) = 0 := by
  refine ⟨?_, ?_, ?_, ?_⟩ <;>
    simp [aesInvMix, aesXtime_xor, BitVec.xor_assoc, BitVec.xor_comm, byteXor_left_comm]

/-- A mixed column is the XOR of what its four bytes put into it, so unmixing it leaves the first byte alone. -/
theorem aesInvMix_aesMix (a b c d : Byte) :
    aesInvMix (aesMix a b c d) (aesMix b c d a) (aesMix c d a b) (aesMix d a b c) = a := by
  have h0 : aesMix a b c d = aesXtime a ^^^ ((aesXtime b ^^^ b) ^^^ (c ^^^ d)) := by unfold aesMix; ac_rfl
  have h1 : aesMix b c d a = a ^^^ (aesXtime b ^^^ ((aesXtime c ^^^ c) ^^^ d)) := by unfold aesMix; ac_rfl
  have h2 : aesMix c d a b = a ^^^ (b ^^^ (aesXtime c ^^^ (aesXtime d ^^^ d))) := by unfold aesMix; ac_rfl
  have h3 : aesMix d a b c = (aesXtime a ^^^ a) ^^^ (b ^^^ (c ^^^ aesXtime d)) := by unfold aesMix; ac_rfl
  rw [h0, h1, h2, h3]
  simp [aesInvMix_xor, aesInvMix_single]

/-- The byte `r` rows below byte `i` in its column, the rows taken round. -/
def aesBelow (i r : Nat) : Nat := 4 * (i / 4) + (i + r) % 4

theorem aesBelow_lt {i : Nat} (hi : i < 16) (r : Nat) : aesBelow i r < 16 := by
  unfold aesBelow; omega

theorem aesBelow_aesBelow (i q r : Nat) : aesBelow (aesBelow i q) r = aesBelow i ((q + r) % 4) := by
  unfold aesBelow; omega

theorem aesBelow_zero (i : Nat) : aesBelow i 0 = i := by
  unfold aesBelow; omega

/-- Byte `i` of a mixed state. -/
theorem aesMixWith_getD (mix : Byte → Byte → Byte → Byte → Byte) (s : List Byte) {i : Nat} (hi : i < 16) :
    (aesMixWith mix s).getD i 0 =
      mix (s.getD (aesBelow i 0) 0) (s.getD (aesBelow i 1) 0) (s.getD (aesBelow i 2) 0)
        (s.getD (aesBelow i 3) 0) := by
  simp [aesMixWith, aesBelow, hi]

theorem aesInvMixColumns_aesMixColumns (s : List Byte) (h : s.length = 16) :
    aesInvMixColumns (aesMixColumns s) = s := by
  apply List.ext_getElem (by simp [h])
  intro i hi hs
  have h16 : i < 16 := by omega
  rw [← List.getD_eq_getElem _ 0 hi, ← List.getD_eq_getElem _ 0 hs, aesInvMixColumns, aesMixWith_getD _ _ h16]
  simp only [aesMixColumns, aesMixWith_getD _ _ (aesBelow_lt h16 _), aesBelow_aesBelow]
  exact (aesInvMix_aesMix _ _ _ _).trans (by rw [Nat.zero_mod, aesBelow_zero])

/-! ### The rounds -/

theorem aesInvRound_aesRound (k s : List Byte) (hk : k.length = 16) (hs : s.length = 16) :
    aesInvRound k (aesRound k s) = s := by
  rw [aesInvRound, aesRound, xorBytes_cancel _ _ (by simp [hk]),
    aesInvMixColumns_aesMixColumns _ (aesShiftRows_length _), aesInvShiftRows_aesShiftRows _ (by simpa using hs),
    map_aesInvSub_map_aesSub]

theorem aesInvLastRound_aesLastRound (k s : List Byte) (hk : k.length = 16) (hs : s.length = 16) :
    aesInvLastRound k (aesLastRound k s) = s := by
  rw [aesInvLastRound, aesLastRound, xorBytes_cancel _ _ (by simp [hk]),
    aesInvShiftRows_aesShiftRows _ (by simpa using hs), map_aesInvSub_map_aesSub]

theorem aesRound_length (k s : List Byte) (hk : k.length = 16) : (aesRound k s).length = 16 := by
  simp [aesRound, hk]

/-- The rounds are undone in the reverse order, each with its own key. -/
theorem aesDecRounds_aesEncRounds (ks : List (List Byte)) (s : List Byte) (hk : ∀ k ∈ ks, k.length = 16)
    (hs : s.length = 16) : aesDecRounds ks (aesEncRounds ks s) = s := by
  induction ks generalizing s with
  | nil => rfl
  | cons k ks ih =>
    have hk0 : k.length = 16 := hk k List.mem_cons_self
    cases ks with
    | nil => exact aesInvLastRound_aesLastRound k s hk0 hs
    | cons k' ks =>
      rw [aesEncRounds, aesDecRounds, ih _ (fun r hr => hk r (List.mem_cons_of_mem _ hr)) (aesRound_length k s hk0),
        aesInvRound_aesRound k s hk0 hs]

theorem aesDec_aesEnc (key b : List Byte) (hkey : key.length = 16) (hb : b.length = 16) :
    aesDec key (aesEnc key b) = b := by
  have hkeys := aesKeySchedule_lengths 9 (aesXtime 1) _ (aesNextKey_length 1 key hkey)
  simp only [aesDec, aesEnc, aesKeys_eq]
  rw [aesDecRounds_aesEncRounds _ _ hkeys (by simp [hkey, hb]), xorBytes_cancel _ _ (by omega)]

/-- Settles O53, algorithm by algorithm: DES undoes itself with its round keys reversed, TDEA layer by layer, AES
round by round. -/
theorem intendedDecInvertsEnc : Obligations.IntendedDecInvertsEnc := by
  intro a key blk hkey hblk
  cases a with
  | des => exact desDec_desEnc key blk hblk
  | tdes2 => exact tdeaDec_tdeaEnc _ _ _ blk hblk
  | tdes3 => exact tdeaDec_tdeaEnc _ _ _ blk hblk
  | aes => exact aesDec_aesEnc key blk hkey hblk

end Sys2Proof.Machine
end

section
/-! PROOFS. What a command can answer, said once for all commands: it is rejected and STATUS alone is written, or
its effect takes place and then STATUS is written. From it, which command can write which field. -/

namespace Sys2Proof.Machine

/-! ## A check passes its command on or rejects it -/

section Checks

variable {s : State} {P : Result → Prop} (hrej : ∀ e, P (rejected e s))

include hrej

theorem requireKey_elim {k : KeySel} {go : KeyBytes → Result}
    (hgo : ∀ reg, s.keyReg k = some reg → P (go reg)) : P (requireKey k s go) := by
  cases hk : s.keyReg k with
  | none => rw [requireKey_none go hk]; exact hrej _
  | some reg => rw [requireKey_some go hk]; exact hgo reg hk

theorem requireAlg_elim {go : Alg → Result} (hgo : ∀ a, s.alg = some a → P (go a)) : P (requireAlg s go) := by
  cases ha : s.alg with
  | none => rw [requireAlg_none go ha]; exact hrej _
  | some a => rw [requireAlg_some go ha]; exact hgo a ha

theorem requireRoom_elim {n : Nat} {go : Result} (hgo : s.lenNat + n ≤ Config.bufBytes → P go) :
    P (requireRoom n s go) := by
  by_cases hr : s.lenNat + n ≤ Config.bufBytes
  · rw [requireRoom_le go hr]; exact hgo hr
  · rw [requireRoom_gt go hr]; exact hrej _

theorem requireAligned_elim {bl : Nat} {go : Result} (hgo : s.lenNat % bl = 0 → P go) :
    P (requireAligned bl s go) := by
  by_cases hr : s.lenNat % bl = 0
  · rw [requireAligned_zero go hr]; exact hgo hr
  · rw [requireAligned_ne go hr]; exact hrej _

end Checks

/-! ## Effects and answers -/

/-- `Effect s i u`: from `s` the command `i` passes its checks, and has made `u` of `s` when it comes to write
STATUS. Tied to the machine by `exec_answers`. -/
inductive Effect (s : State) : Instr → State → Prop
  | nop : Effect s .nop s
  | chainx {k : KeySel} {a : Alg} {reg : KeyBytes} (d : Dir) (m : Mode) (x : IvSource) (h : ReadyToChain s k a reg) :
      Effect s (.chainx k d m x) (chainTransform a (keyOf a reg) d m x s)
  | chain {k : KeySel} {a : Alg} {reg : KeyBytes} (enc : Bool) (h : ReadyToChain s k a reg) :
      Effect s (.chain k enc)
        (chainTransform a (keyOf a reg) (resolveDir enc) (resolveMode enc s.chan) .context s)
  | cmacsk {k : KeySel} {a : Alg} {reg : KeyBytes} (hk : s.keyReg k = some reg) (ha : s.alg = some a) :
      Effect s (.cmacsk k) (withSubkeys a (keyOf a reg) s)
  | cmac {k : KeySel} {a : Alg} {reg : KeyBytes} (h : ReadyToMac s k a reg) :
      Effect s (.cmac k) (macTransform a (keyOf a reg) s)
  | crc32 : Effect s .crc32 (s.setCrcr s.dataCrc32)
  | crc32a (h : s.lenNat + 4 ≤ Config.bufBytes) :
      Effect s .crc32a ((s.appendCrc (bytes32 s.dataCrc32)).setCrcr s.dataCrc32)
  | crc32v : Effect s .crc32v (s.setCrcr s.dataCrc32)
  | crc16 : Effect s .crc16 (s.setCrcr (s.dataCrc16a.setWidth 32))
  | crc16a (h : s.lenNat + 2 ≤ Config.bufBytes) :
      Effect s .crc16a ((s.appendCrc (bytes16 s.dataCrc16a)).setCrcr (s.dataCrc16a.setWidth 32))
  | crc16v : Effect s .crc16v (s.setCrcr (s.dataCrc16a.setWidth 32))
  | clriv : Effect s .clriv (s.setIv zeroBlock)
  | clrsess : Effect s .clrsess s.clearSession
  | clrctx : Effect s .clrctx ((s.clearSession.setCtrl (s.clearSession.ctrl &&& ~~~algMask)).setKey zeroKey)

/-- The two kinds of answer a command gives (spec/60_exceptions.md R333, R334). -/
inductive Answers (s : State) (i : Instr) : Result → Prop
  | rejected (e : EngineError) : Answers s i (rejected e s)
  | completed {u : State} {v : Word} (h : Effect s i u) (hv : v = 0 ∨ v = 2) : Answers s i (.next (u.setStatus v))

theorem answers_accepted {s u : State} {i : Instr} (h : Effect s i u) : Answers s i (accepted u) :=
  .completed h (.inl rfl)

theorem answers_verified {s u : State} {i : Instr} (ok : Bool) (h : Effect s i u) :
    Answers s i (verified ok u) :=
  .completed h (by cases ok <;> simp)

theorem exec_answers (i : Instr) (s : State) : Answers s i (exec i s) := by
  have hrej : ∀ e, Answers s i (rejected e s) := .rejected
  cases i with
  | nop => exact answers_accepted .nop
  | chainx k d m x =>
    exact requireKey_elim hrej fun _ hk => requireAlg_elim hrej fun _ ha => requireRoom_elim hrej fun hr =>
      requireAligned_elim hrej fun hal => answers_accepted (.chainx d m x ⟨hk, ha, hr, hal⟩)
  | chain k enc =>
    exact requireKey_elim hrej fun _ hk => requireAlg_elim hrej fun _ ha => requireRoom_elim hrej fun hr =>
      requireAligned_elim hrej fun hal => answers_accepted (.chain enc ⟨hk, ha, hr, hal⟩)
  | cmacsk k =>
    exact requireKey_elim hrej fun _ hk => requireAlg_elim hrej fun _ ha => answers_accepted (.cmacsk hk ha)
  | cmac k =>
    exact requireKey_elim hrej fun _ hk => requireAlg_elim hrej fun _ ha => requireRoom_elim hrej fun hr =>
      answers_accepted (.cmac ⟨hk, ha, hr⟩)
  | crc32 => exact requireRoom_elim hrej fun _ => answers_accepted .crc32
  | crc32a => exact requireRoom_elim hrej fun h => answers_accepted (.crc32a h)
  | crc32v => exact requireRoom_elim hrej fun _ => answers_verified _ .crc32v
  | crc16 => exact requireRoom_elim hrej fun _ => answers_accepted .crc16
  | crc16a => exact requireRoom_elim hrej fun h => answers_accepted (.crc16a h)
  | crc16v => exact requireRoom_elim hrej fun _ => answers_verified _ .crc16v
  | clriv => exact answers_accepted .clriv
  | clrsess => exact answers_accepted .clrsess
  | clrctx => exact answers_accepted .clrctx

/-- Every command completes, rejected or not (spec/60_exceptions.md R337). -/
theorem exec_completes (i : Instr) (s : State) : ∃ t, exec i s = .next t :=
  match exec i s, exec_answers i s with
  | _, .rejected _ => ⟨_, rfl⟩
  | _, .completed _ _ => ⟨_, rfl⟩

/-- A state that a command answers is the old one with an error in STATUS, or the command's effect with 0 or 2
there. -/
theorem exec_cases {i : Instr} {s t : State} (h : exec i s = .next t) :
    (∃ e, t = s.reject e) ∨ ∃ u v, Effect s i u ∧ (v = 0 ∨ v = 2) ∧ t = u.setStatus v := by
  have hans : Answers s i (.next t) := h ▸ exec_answers i s
  cases hans with
  | rejected e => exact .inl ⟨e, rfl⟩
  | completed hu hv => exact .inr ⟨_, _, hu, hv, rfl⟩

/-! ## Which command can write which field -/

/-- The commands that can write a field (spec/10_state.md R50 to R59). -/
def MayWrite (i : Instr) : Field → Prop
  | .ctrl | .lastIv | .skenc | .skmac => i = .clrsess ∨ i = .clrctx
  | .status => True
  | .len => i = .crc32a ∨ i = .crc16a
  | .crcr => i ∈ [Instr.crc32, .crc32a, .crc32v, .crc16, .crc16a, .crc16v]
  | .iv => usesCipher i = true ∨ i = .clriv ∨ i = .clrsess ∨ i = .clrctx
  | .xiv => ∃ k d m, i = .chainx k d m .external
  | .sk1 | .sk2 => (∃ k, i = .cmacsk k ∨ i = .cmac k) ∨ i = .clrsess ∨ i = .clrctx
  | .key => i = .clrctx
  | .dbuf => needsAligned i = true ∨ i = .crc32a ∨ i = .crc16a
  | .epoch | .fitted | .pending | .rdata => False

theorem agree_refl (s : State) (f : Field) : agree s s f := by
  cases f <;> simp [agree]

theorem agree_setStatus {s u : State} {f : Field} (v : Word) (hf : f ≠ .status) (h : agree s u f) :
    agree s (u.setStatus v) f := by
  cases f with
  | status => exact absurd rfl hf
  | _ => exact h

theorem chainTransform_agree {f : Field} (a : Alg) (key : List Byte) (d : Dir) (m : Mode) (x : IvSource)
    (s : State) (hdbuf : f ≠ .dbuf) (hiv : f ≠ .iv) (hxiv : x = .external → f ≠ .xiv) :
    agree s (chainTransform a key d m x s) f := by
  cases f with
  | dbuf => exact absurd rfl hdbuf
  | iv => exact absurd rfl hiv
  | xiv =>
    cases x with
    | context => simp [agree, chainTransform_eq]
    | external => exact absurd rfl (hxiv rfl)
  | _ => simp [agree, chainTransform_eq]

theorem withSubkeys_agree {f : Field} (a : Alg) (key : List Byte) (s : State) (hiv : f ≠ .iv) (hsk1 : f ≠ .sk1)
    (hsk2 : f ≠ .sk2) : agree s (withSubkeys a key s) f := by
  cases f <;> simp [agree, withSubkeys] at *

theorem macTransform_agree {f : Field} (a : Alg) (key : List Byte) (s : State) (hiv : f ≠ .iv) (hsk1 : f ≠ .sk1)
    (hsk2 : f ≠ .sk2) : agree s (macTransform a key s) f := by
  cases f <;> simp [agree, macTransform, withSubkeys] at *

theorem appendCrc_agree {f : Field} (s : State) (c : List Byte) (v : Word) (hdbuf : f ≠ .dbuf) (hlen : f ≠ .len)
    (hcrcr : f ≠ .crcr) : agree s ((s.appendCrc c).setCrcr v) f := by
  cases f <;> simp [agree, State.appendCrc] at *

theorem setCrcr_agree {f : Field} (s : State) (v : Word) (hcrcr : f ≠ .crcr) : agree s (s.setCrcr v) f := by
  cases f <;> simp [agree] at *

theorem effect_agree {i : Instr} {s u : State} {f : Field} (h : Effect s i u) (hf : ¬ MayWrite i f) :
    agree s u f := by
  have hne : ∀ g, MayWrite i g → f ≠ g := fun g hg hfg => hf (hfg ▸ hg)
  cases h with
  | nop => exact agree_refl s f
  | chainx d m x _ =>
    exact chainTransform_agree _ _ d m x s (hne .dbuf (.inl rfl)) (hne .iv (.inl rfl))
      fun hx => hne .xiv ⟨_, _, _, by rw [hx]⟩
  | chain enc _ =>
    exact chainTransform_agree _ _ _ _ .context s (hne .dbuf (.inl rfl)) (hne .iv (.inl rfl)) nofun
  | cmacsk =>
    exact withSubkeys_agree _ _ s (hne .iv (.inl rfl)) (hne .sk1 (.inl ⟨_, .inl rfl⟩)) (hne .sk2 (.inl ⟨_, .inl rfl⟩))
  | cmac =>
    exact macTransform_agree _ _ s (hne .iv (.inl rfl)) (hne .sk1 (.inl ⟨_, .inr rfl⟩)) (hne .sk2 (.inl ⟨_, .inr rfl⟩))
  | crc32a =>
    exact appendCrc_agree s _ _ (hne .dbuf (.inr (.inl rfl))) (hne .len (.inl rfl)) (hne .crcr (by simp [MayWrite]))
  | crc16a =>
    exact appendCrc_agree s _ _ (hne .dbuf (.inr (.inr rfl))) (hne .len (.inr rfl)) (hne .crcr (by simp [MayWrite]))
  | crc32 | crc32v | crc16 | crc16v => exact setCrcr_agree s _ (hne .crcr (by simp [MayWrite]))
  | clriv => cases f <;> simp [agree, MayWrite] at *
  | clrsess => cases f <;> simp [agree, MayWrite, State.clearSession] at *
  | clrctx => cases f <;> simp [agree, MayWrite, State.clearSession] at *

/-- A field that a command may not write is as it was, whether the command is rejected or not. -/
theorem exec_agree {i : Instr} {s t : State} {f : Field} (h : exec i s = .next t) (hf : ¬ MayWrite i f) :
    agree s t f := by
  have hstatus : f ≠ .status := fun hs => hf (hs ▸ trivial)
  rcases exec_cases h with ⟨e, rfl⟩ | ⟨u, v, hu, -, rfl⟩
  · exact agree_setStatus _ hstatus (agree_refl s f)
  · exact agree_setStatus v hstatus (effect_agree hu hf)

/-- Settles O49: `MayWrite` lists each register's writers, and no command writes the model's own fields. -/
theorem registersWrittenOnlyByTheirCommands : Obligations.RegistersWrittenOnlyByTheirCommands := by
  intro i s t h
  have writer : ∀ f, ¬ agree s t f → MayWrite i f := fun f hne => by_contra fun hf => hne (exec_agree h hf)
  have kept : ∀ f, ¬ MayWrite i f → agree s t f := fun f => exec_agree h
  exact ⟨writer .ctrl, writer .len, writer .crcr, writer .iv, writer .xiv, writer .lastIv, writer .sk1, writer .sk2,
    writer .key, writer .skenc, writer .skmac, kept .epoch id, kept .fitted id, kept .pending id, kept .rdata id⟩

/-! ## DBUF -/

/-- A chained transform that is accepted writes the bytes below LEN and no other. -/
theorem memLookup_chainTransform {s : State} {k : KeySel} {a : Alg} {reg : KeyBytes} (d : Dir) (m : Mode)
    (x : IvSource) (h : ReadyToChain s k a reg) (j : Nat) :
    memLookup (chainTransform a (keyOf a reg) d m x s).dbuf j =
      if j < s.lenNat then
        (pass d (prim s.fitted a (keyOf a reg) m) (blockLen a) s.data (startingIv s x (blockLen a))).1[j]?
      else memLookup s.dbuf j := by
  have hlen := (chainTransform_lengths d m x h).1
  have hroom : s.lenNat ≤ Config.bufBytes := h.room
  have hrange : (0 ≤ j ∧ j < 0 + s.lenNat ∧ j < Config.bufBytes) ↔ j < s.lenNat := by omega
  simp only [chainTransform_eq, memLookup_memStoreBytes, hlen, hrange, Nat.sub_zero]

theorem dbufByte_chainTransform_of_le {s : State} {k : KeySel} {a : Alg} {reg : KeyBytes} (d : Dir) (m : Mode)
    (x : IvSource) (h : ReadyToChain s k a reg) {j : Nat} (hj : s.lenNat ≤ j) :
    dbufByte (chainTransform a (keyOf a reg) d m x s) j = dbufByte s j := by
  have hepoch : (chainTransform a (keyOf a reg) d m x s).epoch = s.epoch := by rw [chainTransform_eq]
  rw [dbufByte, memLookup_chainTransform d m x h, if_neg (Nat.not_lt.2 hj), hepoch, dbufByte]

/-- An append writes no byte but those right after the data. -/
theorem appendCrc_writes {s : State} {c : List Byte} {v : Word} {j : Nat}
    (hne : dbufByte ((s.appendCrc c).setCrcr v) j ≠ dbufByte s j) : s.lenNat ≤ j ∧ j < s.lenNat + c.length := by
  by_contra hout
  exact hne (dbufByte_setDbuf_outside s s.lenNat j c (by omega))

/-- Where an effect can change a byte of DBUF. -/
theorem effect_dbuf {i : Instr} {s u : State} {j : Nat} (h : Effect s i u) (hne : dbufByte u j ≠ dbufByte s j) :
    j < 1024 ∧
    ((j < s.len.toNat ∧ needsAligned i = true) ∨
      (s.len.toNat ≤ j ∧ j < s.len.toNat + 4 ∧ i = .crc32a) ∨
      (s.len.toNat ≤ j ∧ j < s.len.toNat + 2 ∧ i = .crc16a)) := by
  have hwriter : MayWrite i .dbuf := by_contra fun hf => hne (effect_agree h hf j)
  cases h with
  | chainx d m x hready =>
    have hj := lt_of_not_ge fun hj => hne (dbufByte_chainTransform_of_le d m x hready hj)
    exact ⟨lt_of_lt_of_le hj hready.room, .inl ⟨hj, rfl⟩⟩
  | chain enc hready =>
    have hj := lt_of_not_ge fun hj => hne (dbufByte_chainTransform_of_le _ _ _ hready hj)
    exact ⟨lt_of_lt_of_le hj hready.room, .inl ⟨hj, rfl⟩⟩
  | crc32a hroom =>
    obtain ⟨hlo, hhi⟩ := appendCrc_writes hne
    exact ⟨lt_of_lt_of_le hhi hroom, .inr (.inl ⟨hlo, hhi, rfl⟩)⟩
  | crc16a hroom =>
    obtain ⟨hlo, hhi⟩ := appendCrc_writes hne
    exact ⟨lt_of_lt_of_le hhi hroom, .inr (.inr ⟨hlo, hhi, rfl⟩)⟩
  | _ => simp [MayWrite, needsAligned] at hwriter

/-- Settles O50: a rejected command writes no byte, and the effects write the bytes `effect_dbuf` says. -/
theorem dbufWrittenOnlyWhereAllowed : Obligations.DbufWrittenOnlyWhereAllowed := by
  intro i s t j h hne
  rcases exec_cases h with ⟨e, rfl⟩ | ⟨u, v, hu, -, rfl⟩
  · exact absurd rfl hne
  · exact effect_dbuf hu hne

/-- Settles O31: the registers by `exec_agree`, the bytes of DBUF by `memLookup_chainTransform`. -/
theorem chainxFrame : Obligations.ChainxFrame := by
  intro s k d m x a reg h
  have hexec := exec_chainx_ready d m x h
  refine ⟨_, hexec, fun f hf => exec_agree hexec ?_, fun i hi => ⟨?_, ?_⟩, fun i hi => ?_⟩
  · cases f <;> simp [MayWrite] at hf ⊢
  · exact (memLookup_chainTransform d m x h i).trans (if_neg (Nat.not_lt.2 hi))
  · exact dbufByte_chainTransform_of_le d m x h hi
  · have hlen := (chainTransform_lengths d m x h).1
    exact ⟨_, (memLookup_chainTransform d m x h i).trans
      ((if_pos hi).trans (List.getElem?_eq_getElem (hlen.symm ▸ hi)))⟩

end Sys2Proof.Machine
end

section
/-! PROOFS. The invariant of every state (spec/10_state.md R42, R46; spec/20_memory.md R114; spec/60_exceptions.md
R330): each thing a host event can do keeps it. -/

namespace Sys2Proof.Machine

/-! ## The commands -/

/-- The invariant speaks of CTRL, STATUS and DBUF alone. -/
theorem inv_of_eq {s t : State} (hs : s.Inv) (hctrl : t.ctrl = s.ctrl) (hstatus : t.status = s.status)
    (hdbuf : t.dbuf = s.dbuf) : t.Inv := by
  rw [State.Inv, hctrl, hstatus, hdbuf]
  exact hs

theorem inv_setStatus {s : State} {v : Word} (hs : s.Inv) (hv : v ∈ statusValues) : (s.setStatus v).Inv :=
  have ⟨hctrl, _, hdbuf⟩ := hs
  ⟨hctrl, hv, hdbuf⟩

theorem inv_setDbuf {s : State} (lo : Nat) (bs : List Byte) (hs : s.Inv) : (s.setDbuf lo bs).Inv :=
  have ⟨hctrl, hstatus, hdbuf⟩ := hs
  ⟨hctrl, hstatus, memStoreBytes_wf bs s.dbuf lo hdbuf⟩

theorem inv_setCtrl {s : State} {v : Word} (hs : s.Inv) (hv : v &&& ~~~ctrlMask = 0) : (s.setCtrl v).Inv :=
  have ⟨_, hrest⟩ := hs
  ⟨hv, hrest⟩

/-- The error codes of R330 make the STATUS values of R330. -/
theorem inv_reject {s : State} (e : EngineError) (hs : s.Inv) : (s.reject e).Inv :=
  inv_setStatus hs (by cases e <;> decide)

/-- Clearing bits of CTRL sets no reserved bit. -/
theorem and_reserved_eq_zero {c : Word} (mask : Word) (h : c &&& ~~~ctrlMask = 0) :
    (c &&& mask) &&& ~~~ctrlMask = 0 := by
  rw [BitVec.and_assoc, BitVec.and_comm mask, ← BitVec.and_assoc, h]
  exact BitVec.zero_and

theorem inv_clearSession {s : State} (hs : s.Inv) : s.clearSession.Inv :=
  have ⟨hctrl, hrest⟩ := hs
  ⟨and_reserved_eq_zero _ hctrl, hrest⟩

theorem inv_chainTransform {s : State} (a : Alg) (key : List Byte) (d : Dir) (m : Mode) (x : IvSource)
    (hs : s.Inv) : (chainTransform a key d m x s).Inv := by
  rw [chainTransform_eq]
  exact inv_of_eq (inv_setDbuf 0 _ hs) rfl rfl rfl

theorem inv_effect {i : Instr} {s u : State} (h : Effect s i u) (hs : s.Inv) : u.Inv := by
  cases h with
  | chainx d m x _ => exact inv_chainTransform _ _ d m x hs
  | chain enc _ => exact inv_chainTransform _ _ _ _ _ hs
  | cmacsk => rw [withSubkeys_eq]; exact inv_of_eq hs rfl rfl rfl
  | cmac => rw [macTransform_eq]; exact inv_of_eq hs rfl rfl rfl
  | crc32a | crc16a => exact inv_of_eq (inv_setDbuf s.lenNat _ hs) rfl rfl rfl
  | clrsess => exact inv_clearSession hs
  | clrctx =>
    obtain ⟨hctrl, hrest⟩ := inv_clearSession hs
    exact ⟨and_reserved_eq_zero _ hctrl, hrest⟩
  | nop | crc32 | crc32v | crc16 | crc16v | clriv => exact inv_of_eq hs (by simp) (by simp) (by simp)

theorem inv_exec {i : Instr} {s t : State} (h : exec i s = .next t) (hs : s.Inv) : t.Inv := by
  rcases exec_cases h with ⟨e, rfl⟩ | ⟨u, v, hu, hv, rfl⟩
  · exact inv_reject e hs
  · exact inv_setStatus (inv_effect hu hs) (by rcases hv with rfl | rfl <;> decide)

/-! ## The other host events -/

theorem runCommand_ok {w : Word} {i : Instr} (s : State) (h : decode w = .ok i) : runCommand w s = exec i s := by
  rw [runCommand, h]

theorem runCommand_error {w : Word} {e : DecodeError} (s : State) (h : decode w = .error e) :
    runCommand w s = rejected .illegalCmd s := by
  rw [runCommand, h]

theorem inv_runCommand {w : Word} {s t : State} (h : runCommand w s = .next t) (hs : s.Inv) : t.Inv := by
  cases hw : decode w with
  | ok i => exact inv_exec (runCommand_ok s hw ▸ h) hs
  | error e =>
    rw [runCommand_error s hw, rejected_eq_next] at h
    exact h ▸ inv_reject _ hs

/-- A host write stores into CTRL without its reserved bits, into DBUF byte by byte, and into no other register
that the invariant speaks of. -/
theorem inv_writeReg {s : State} (r : RegName) (o : Nat) (v : Word) (hs : s.Inv) : (s.writeReg r o v).Inv := by
  cases r with
  | ctrl => exact inv_setCtrl hs (BitVec.and_comm ctrlMask v ▸ and_reserved_eq_zero v (by decide))
  | dbuf => exact inv_setDbuf o _ hs
  | _ => exact inv_of_eq hs (by simp [State.writeReg]) (by simp [State.writeReg]) (by simp [State.writeReg])

theorem inv_writeWord {s : State} (off : Nat) (v : Word) (hs : s.Inv) : (s.writeWord off v).Inv := by
  unfold State.writeWord
  split
  · exact inv_writeReg _ _ v hs
  · exact hs

/-- Settles O18: the registers are 0 and DBUF has no cell. -/
theorem resetHasInvariant : Obligations.ResetHasInvariant :=
  ⟨by decide, by decide, reset_dbuf_wf⟩

theorem inv_afterReset (s : State) : s.afterReset.Inv := resetHasInvariant

theorem inv_performEvent {e : HostEvent} {s t : State} (h : performEvent e s = .next t) (hs : s.Inv) : t.Inv := by
  cases e with
  | read width addr =>
    simp only [performEvent] at h
    split at h
    · cases h; exact inv_of_eq hs rfl rfl rfl
    · cases h
  | write width addr v =>
    simp only [performEvent] at h
    split at h
    · split at h
      · exact inv_runCommand h hs
      · cases h; exact inv_writeWord addr v hs
    · cases h
  | reset => cases h; exact inv_afterReset s

/-- Settles O17, by the event the step performs: a step without one changes nothing. -/
theorem stepKeepsInvariant : Obligations.StepKeepsInvariant := by
  intro s t hs h
  cases hp : s.pending with
  | nil => rw [step, hp] at h; cases h; exact hs
  | cons e rest => rw [step, hp] at h; exact inv_performEvent h hs

/-- Settles O6: a write to CMD is an accepted access, and `runCommand` performs the command its word decodes
to. -/
theorem stepRunsDecodedCommand : Obligations.StepRunsDecodedCommand :=
  fun s _ _ rest hp hw => (step_command hp).trans (runCommand_ok (s.setPending rest) hw)

/-! ## What the host reads where the invariant holds -/

theorem readWord_of_locate {off o : Nat} {r : RegName} (s : State) (h : locate off = some (r, o)) :
    s.readWord off = s.readReg r o := by
  rw [State.readWord, h]

theorem not_ctrlMask : ~~~ctrlMask = 0xFFFFFFC8 := by decide

/-- In each of the six values of R330: the reserved bits, ERRCODE against ERR, and the largest code. -/
theorem status_wellFormed {w : Word} (h : w ∈ statusValues) :
    w &&& 0xFFFFFF0C = 0 ∧ (w.extractLsb' 4 4 = 0 ↔ w.getLsbD 0 = false) ∧ (w.extractLsb' 4 4).toNat ≤ 4 := by
  simp only [statusValues, List.mem_cons, List.not_mem_nil, or_false] at h
  rcases h with rfl | rfl | rfl | rfl | rfl | rfl <;> decide

theorem setWidth_high_eq_zero (v : BitVec 16) : v.setWidth 32 &&& 0xFFFF0000 = 0 := by
  apply BitVec.eq_of_getLsbD_eq
  intro i hi
  interval_cases i <;> simp

/-- Settles O19: CTRL by its part of the invariant, STATUS value by value, LEN because it stores 16 bits. -/
theorem reservedBitsReadZero : Obligations.ReservedBitsReadZero := by
  intro s hs
  obtain ⟨hreserved, hvalue, -⟩ := hs
  obtain ⟨hmask, hcode, hle⟩ := status_wellFormed hvalue
  have hctrl : s.readWord 0x000 = s.ctrl := readWord_of_locate (r := .ctrl) (o := 0) s (by decide)
  have hstatus : s.readWord 0x008 = s.status := readWord_of_locate (r := .status) (o := 0) s (by decide)
  have hlen : s.readWord 0x00C = s.len.setWidth 32 := readWord_of_locate (r := .len) (o := 0) s (by decide)
  rw [hctrl, hstatus, hlen, ← not_ctrlMask]
  exact ⟨hreserved, hmask, setWidth_high_eq_zero s.len, hcode, hle⟩

end Sys2Proof.Machine
end

section
/-! PROOFS. What no command takes notice of: which of None, EV1 and EV2 the channel is (spec/10_state.md R44) and the
bytes of a key register beyond the key (R56 to R58, spec/41_chain.md R220). Both are a change of CTRL and the key
registers that every command but CLRSESS and CLRCTX commutes with; those two overwrite what was changed. -/

namespace Sys2Proof.Machine

/-! ## Another CTRL and other key registers -/

/-- Contents of CTRL and of the key registers. -/
structure Setup where
  ctrl : Word
  key : KeyBytes
  skenc : KeyBytes
  skmac : KeyBytes

/-- The contents that a state has. -/
def State.setup (s : State) : Setup := ⟨s.ctrl, s.key, s.skenc, s.skmac⟩

/-- The state with other contents of CTRL and of the key registers. -/
def State.withSetup (s : State) (p : Setup) : State :=
  (((s.setCtrl p.ctrl).setKey p.key).setSkenc p.skenc).setSkmac p.skmac

theorem withSetup_ctrl (s : State) (c : Word) : s.withSetup { s.setup with ctrl := c } = s.setCtrl c := rfl

/-- A command that has no part in writing CTRL and the keys finds in `p` what it finds in `s`: the algorithm,
whether the channel is D40, and the key of the algorithm's length under every key select. -/
structure Setup.Alike (p : Setup) (s : State) : Prop where
  alg : (s.withSetup p).alg = s.alg
  d40 : (s.withSetup p).chan = .d40 ↔ s.chan = .d40
  keys : ∀ a, s.alg = some a → ∀ k, ((s.withSetup p).keyReg k).map (keyOf a) = (s.keyReg k).map (keyOf a)

/-- Apply `g` to the state that a result answers. -/
def mapNext (g : State → State) : Result → Result
  | .next t => .next (g t)
  | .fault r => .fault r
  | .refused r => .refused r

/-- `r'` is the result `r` with the setup `p` in place of its own. -/
def Follows (p : Setup) (r' r : Result) : Prop := r' = mapNext (·.withSetup p) r

/-! ## The checks -/

section Follows

variable {p : Setup} {s : State}

theorem follows_rejected (e : EngineError) : Follows p (rejected e (s.withSetup p)) (rejected e s) := rfl

theorem follows_accepted {u u' : State} (h : u' = u.withSetup p) : Follows p (accepted u') (accepted u) := by
  rw [h]
  rfl

theorem follows_requireRoom {n : Nat} {go go' : Result} (hgo : Follows p go' go) :
    Follows p (requireRoom n (s.withSetup p) go') (requireRoom n s go) := by
  have hlen : (s.withSetup p).lenNat = s.lenNat := rfl
  by_cases hr : s.lenNat + n ≤ Config.bufBytes
  · rw [requireRoom_le go hr, requireRoom_le go' (hlen ▸ hr)]
    exact hgo
  · rw [requireRoom_gt go hr, requireRoom_gt go' (hlen ▸ hr)]
    exact follows_rejected _

theorem follows_requireAligned {bl : Nat} {go go' : Result} (hgo : Follows p go' go) :
    Follows p (requireAligned bl (s.withSetup p) go') (requireAligned bl s go) := by
  have hlen : (s.withSetup p).lenNat = s.lenNat := rfl
  by_cases hr : s.lenNat % bl = 0
  · rw [requireAligned_zero go hr, requireAligned_zero go' (hlen ▸ hr)]
    exact hgo
  · rw [requireAligned_ne go hr, requireAligned_ne go' (hlen ▸ hr)]
    exact follows_rejected _

/-- The checks that all four cipher commands begin with. The command goes on with the algorithm and the key of its
length, and these are alike. -/
theorem follows_requireKeyAlg (h : p.Alike s) (k : KeySel) (go : State → Alg → List Byte → Result)
    (hgo : ∀ a key, Follows p (go (s.withSetup p) a key) (go s a key)) :
    Follows p
      (requireKey k (s.withSetup p) fun reg =>
        requireAlg (s.withSetup p) fun a => go (s.withSetup p) a (keyOf a reg))
      (requireKey k s fun reg => requireAlg s fun a => go s a (keyOf a reg)) := by
  by_cases hk : k = .reserved
  · rw [requireKey_none _ ((keyReg_eq_none s k).2 hk), requireKey_none _ ((keyReg_eq_none _ k).2 hk)]
    exact follows_rejected _
  · obtain ⟨reg, hreg⟩ := Option.ne_none_iff_exists'.1 fun hn => hk ((keyReg_eq_none s k).1 hn)
    obtain ⟨reg', hreg'⟩ := Option.ne_none_iff_exists'.1 fun hn => hk ((keyReg_eq_none (s.withSetup p) k).1 hn)
    rw [requireKey_some _ hreg, requireKey_some _ hreg']
    cases ha : s.alg with
    | none =>
      rw [requireAlg_none _ ha, requireAlg_none _ (h.alg.trans ha)]
      exact follows_rejected _
    | some a =>
      have hkey : keyOf a reg' = keyOf a reg := by simpa [hreg, hreg'] using h.keys a ha k
      rw [requireAlg_some _ ha, requireAlg_some _ (h.alg.trans ha), hkey]
      exact hgo a _

/-! ## The transforms -/

theorem d40Reset_iv_withSetup (h : p.Alike s) : (s.withSetup p).d40Reset.iv = s.d40Reset.iv := by
  rw [State.d40Reset_iv, State.d40Reset_iv]
  exact if_congr h.d40 rfl rfl

theorem startingIv_withSetup (h : p.Alike s) (x : IvSource) (bl : Nat) :
    startingIv (s.withSetup p) x bl = startingIv s x bl := by
  cases x with
  | context => exact if_congr h.d40 rfl rfl
  | external => rfl

theorem resolveMode_withSetup (h : p.Alike s) (enc : Bool) :
    resolveMode enc (s.withSetup p).chan = resolveMode enc s.chan := by
  have hd40 := h.d40
  by_cases hc : s.chan = .d40 <;> simp_all [resolveMode]

theorem data_withSetup (s : State) (p : Setup) : (s.withSetup p).data = s.data := rfl

theorem fitted_withSetup (s : State) (p : Setup) : (s.withSetup p).fitted = s.fitted := rfl

theorem chainTransform_withSetup (h : p.Alike s) (a : Alg) (key : List Byte) (d : Dir) (m : Mode) (x : IvSource) :
    chainTransform a key d m x (s.withSetup p) = (chainTransform a key d m x s).withSetup p := by
  rw [chainTransform_eq, chainTransform_eq, startingIv_withSetup h, d40Reset_iv_withSetup h, data_withSetup,
    fitted_withSetup]
  rfl

theorem withSubkeys_withSetup (h : p.Alike s) (a : Alg) (key : List Byte) :
    withSubkeys a key (s.withSetup p) = (withSubkeys a key s).withSetup p := by
  rw [withSubkeys_eq, withSubkeys_eq, d40Reset_iv_withSetup h, fitted_withSetup]
  rfl

theorem macTransform_withSetup (h : p.Alike s) (a : Alg) (key : List Byte) :
    macTransform a key (s.withSetup p) = (macTransform a key s).withSetup p := by
  rw [macTransform_eq, macTransform_eq, startingIv_withSetup h, d40Reset_iv_withSetup h, resolveMode_withSetup h,
    data_withSetup, fitted_withSetup]
  rfl

/-! ## The commands -/

/-- Every command that writes neither CTRL nor a key register answers the same from an alike setup. -/
theorem exec_withSetup (h : p.Alike s) {i : Instr} (hsess : i ≠ .clrsess) (hctx : i ≠ .clrctx) :
    Follows p (exec i (s.withSetup p)) (exec i s) := by
  cases i with
  | chainx k d m x =>
    refine follows_requireKeyAlg h k (fun s a key => requireRoom 0 s <| requireAligned (blockLen a) s <|
      accepted (chainTransform a key d m x s)) fun a key => ?_
    exact follows_requireRoom (follows_requireAligned (follows_accepted (chainTransform_withSetup h a key d m x)))
  | chain k enc =>
    refine follows_requireKeyAlg h k (fun s a key => requireRoom 0 s <| requireAligned (blockLen a) s <|
      accepted (chainTransform a key (resolveDir enc) (resolveMode enc s.chan) .context s)) fun a key => ?_
    rw [resolveMode_withSetup h]
    exact follows_requireRoom (follows_requireAligned (follows_accepted (chainTransform_withSetup h a key _ _ _)))
  | cmacsk k =>
    refine follows_requireKeyAlg h k (fun s a key => accepted (withSubkeys a key s)) fun a key => ?_
    exact follows_accepted (withSubkeys_withSetup h a key)
  | cmac k =>
    refine follows_requireKeyAlg h k (fun s a key => requireRoom 0 s <| accepted (macTransform a key s))
      fun a key => ?_
    exact follows_requireRoom (follows_accepted (macTransform_withSetup h a key))
  | clrsess => exact absurd rfl hsess
  | clrctx => exact absurd rfl hctx
  | nop | clriv => rfl
  | crc32 | crc32a | crc32v | crc16 | crc16a | crc16v => exact follows_requireRoom rfl

/-- The two answers, and that the setup of `s` is still in the first. -/
theorem exec_withSetup_next (h : p.Alike s) {i : Instr} (hsess : i ≠ .clrsess) (hctx : i ≠ .clrctx) :
    ∃ t, exec i s = .next t ∧ exec i (s.withSetup p) = .next (t.withSetup p) ∧ t.setup = s.setup := by
  obtain ⟨t, ht⟩ := exec_completes i s
  have hclear : ¬ (i = .clrsess ∨ i = .clrctx) := not_or.2 ⟨hsess, hctx⟩
  have hctrl : t.ctrl = s.ctrl := exec_agree (f := .ctrl) ht hclear
  have hkey : t.key = s.key := exec_agree (f := .key) ht hctx
  have hskenc : t.skenc = s.skenc := exec_agree (f := .skenc) ht hclear
  have hskmac : t.skmac = s.skmac := exec_agree (f := .skmac) ht hclear
  have hfollows : exec i (s.withSetup p) = mapNext (·.withSetup p) (exec i s) := exec_withSetup h hsess hctx
  refine ⟨t, ht, by rw [hfollows, ht]; rfl, ?_⟩
  rw [State.setup, State.setup, hctrl, hkey, hskenc, hskmac]

end Follows

/-! ## The channel kinds but D40 -/

/-- ALG lies outside the bits of CHAN. -/
theorem setCtrl_alg_of_masked_eq {s : State} {c : Word}
    (h : c &&& ~~~(0x30 : Word) = s.ctrl &&& ~~~(0x30 : Word)) : (s.setCtrl c).alg = s.alg := by
  have hbits : c.extractLsb' 0 3 = s.ctrl.extractLsb' 0 3 := by
    apply BitVec.eq_of_getLsbD_eq
    intro i hi
    have hbit := congrArg (BitVec.getLsbD · i) h
    interval_cases i <;> simpa using hbit
  simp only [State.alg, State.setCtrl_ctrl, hbits]

theorem alike_setCtrl {s : State} {c : Word} (hs : s.chan ≠ .d40) (hc : (s.setCtrl c).chan ≠ .d40)
    (h : c &&& ~~~(0x30 : Word) = s.ctrl &&& ~~~(0x30 : Word)) : ({ s.setup with ctrl := c } : Setup).Alike s where
  alg := setCtrl_alg_of_masked_eq h
  d40 := iff_of_false hc hs
  keys _ _ k := congrArg _ (State.setCtrl_keyReg s c k)

/-- CLRSESS zeroes CHAN, the only part of CTRL in which the two states differ. -/
theorem clearSession_setCtrl {s : State} {c : Word} (h : c &&& ~~~chanMask = s.ctrl &&& ~~~chanMask) :
    (s.setCtrl c).clearSession = s.clearSession := by
  simp only [State.clearSession, State.setCtrl_ctrl, h]
  rfl

/-- Settles O51: CLRSESS and CLRCTX end in one and the same state; the other commands keep CTRL, and do elsewhere what
they do without the change (`exec_withSetup_next`). -/
theorem channelKindsButD40Alike : Obligations.ChannelKindsButD40Alike := by
  intro i s c hs hc h
  have hclear : (s.setCtrl c).clearSession = s.clearSession := clearSession_setCtrl h
  by_cases hsess : i = .clrsess
  · subst hsess
    exact ⟨_, _, rfl, congrArg accepted hclear, rfl, rfl⟩
  by_cases hctx : i = .clrctx
  · subst hctx
    have hexec : exec .clrctx (s.setCtrl c) = exec .clrctx s := by simp only [exec, execClrctx, hclear]
    exact ⟨_, _, rfl, hexec, rfl, rfl⟩
  obtain ⟨t, ht, ht', hsetup⟩ := exec_withSetup_next (alike_setCtrl hs hc h) hsess hctx
  have hctrl : t.ctrl = s.ctrl := congrArg Setup.ctrl hsetup
  refine ⟨t, t.setCtrl c, ht, ?_, rfl, hctrl.symm ▸ h⟩
  rw [← withSetup_ctrl s, ht', ← hsetup, withSetup_ctrl]

/-! ## The bytes of the key registers beyond the key -/

/-- The setup that differs in the key registers alone. -/
theorem alike_keys {s : State} {a : Alg} {key' skenc' skmac' : KeyBytes} (ha : s.alg = some a)
    (hkey : keyOf a key' = keyOf a s.key) (hskenc : keyOf a skenc' = keyOf a s.skenc)
    (hskmac : keyOf a skmac' = keyOf a s.skmac) : (⟨s.ctrl, key', skenc', skmac'⟩ : Setup).Alike s where
  alg := rfl
  d40 := Iff.rfl
  keys b hb k := by
    obtain rfl : a = b := Option.some.inj (ha.symm.trans hb)
    cases k with
    | static => exact congrArg some hkey
    | senc => exact congrArg some hskenc
    | smac => exact congrArg some hskmac
    | reserved => rfl

/-- Of a setup with the same CTRL nothing is left once the key registers are overwritten. -/
theorem withSetup_overwritten {s : State} {p : Setup} {key skenc skmac : KeyBytes} (h : p.ctrl = s.ctrl) :
    (((s.withSetup p).setKey key).setSkenc skenc).setSkmac skmac =
      ((s.setKey key).setSkenc skenc).setSkmac skmac := by
  simp only [State.withSetup, State.setCtrl, State.setKey, State.setSkenc, State.setSkmac, h]

/-- Settles O52: CLRSESS and CLRCTX read no key; the other commands read the first `kl` bytes of a key register alone
and keep all three (`exec_withSetup_next`). -/
theorem keyTailsAreNeverRead : Obligations.KeyTailsAreNeverRead := by
  intro i s a key' skenc' skmac' ha hkey hskenc hskmac
  by_cases hsess : i = .clrsess
  · subst hsess
    exact ⟨_, _, rfl, rfl, rfl⟩
  by_cases hctx : i = .clrctx
  · subst hctx
    exact ⟨_, _, rfl, rfl, rfl⟩
  obtain ⟨t, ht, ht', hsetup⟩ := exec_withSetup_next (alike_keys ha hkey hskenc hskmac) hsess hctx
  have hctrl : t.ctrl = s.ctrl := congrArg Setup.ctrl hsetup
  exact ⟨t, _, ht, ht', withSetup_overwritten hctrl.symm⟩

end Sys2Proof.Machine
end

section
/-! PROOFS. The register window (spec/20_memory.md R101 to R103, R107): where each register lies, its words as bytes,
and what a write of one word leaves of the words of the window. -/

namespace Sys2Proof.Machine

/-! ## The address map, by register -/

/-- The size in bytes of a register (spec/10_state.md R41). Tied to the map by `region_mem_addressMap`. -/
def regSize : RegName → Nat
  | .ctrl | .cmd | .status | .len | .crcr => 4
  | .iv | .xiv | .lastIv | .sk1 | .sk2 => 16
  | .key | .skenc | .skmac => 24
  | .dbuf => Config.bufBytes

theorem region_mem_addressMap (r : RegName) : ⟨regOffset r, regSize r, r⟩ ∈ addressMap := by
  cases r <;> decide

theorem locate_reg {r : RegName} {a : Nat} (hlo : regOffset r ≤ a) (hhi : a < regOffset r + regSize r) :
    locate a = some (r, a - regOffset r) :=
  locate_of_region (region_mem_addressMap r) hlo hhi

theorem locate_regOffset_add {r : RegName} {o : Nat} (h : o < regSize r) :
    locate (regOffset r + o) = some (r, o) := by
  rw [locate_reg (Nat.le_add_right _ _) (by omega), Nat.add_sub_cancel_left]

theorem region_of_mem {q : Region} (hq : q ∈ addressMap) : q.base = regOffset q.reg ∧ q.size = regSize q.reg := by
  revert q
  decide

/-- Where a located offset lies in its register. -/
theorem locate_some {a o : Nat} {r : RegName} (h : locate a = some (r, o)) : a = regOffset r + o ∧ o < regSize r := by
  unfold locate at h
  split at h
  · rename_i q hq
    obtain ⟨hbase, hsize⟩ := region_of_mem (List.mem_of_find?_eq_some hq)
    have hholds : q.base ≤ a ∧ a < q.base + q.size := by
      simpa [Region.holds] using List.find?_some hq
    cases h
    omega
  · cases h

/-- Registers begin and end at word boundaries. -/
theorem reg_aligned (r : RegName) : regOffset r % 4 = 0 ∧ regSize r % 4 = 0 := by
  cases r <;> decide

/-- A located word lies at a multiple of 4 in its register, and whole inside it. -/
theorem locate_word {a o : Nat} {r : RegName} (ha : wordOffset a) (h : locate a = some (r, o)) :
    o % 4 = 0 ∧ o + 4 ≤ regSize r := by
  obtain ⟨halign, -⟩ := ha
  obtain ⟨rfl, ho⟩ := locate_some h
  obtain ⟨hoff, hsize⟩ := reg_aligned r
  omega

/-- The read/write byte-array registers (R107 (e)). -/
def arrayRegs : List RegName := [.iv, .xiv, .lastIv, .key, .skenc, .skmac, .dbuf]

/-- The read-only registers (R107 (d)). -/
def readOnlyRegs : List RegName := [.status, .crcr, .sk1, .sk2]

theorem exists_locate_of_exists_region {rs : List RegName} {a : Nat}
    (h : ∃ r ∈ rs, regOffset r ≤ a ∧ a < regOffset r + regSize r) : ∃ r ∈ rs, ∃ o, locate a = some (r, o) := by
  obtain ⟨r, hr, hlo, hhi⟩ := h
  exact ⟨r, hr, _, locate_reg hlo hhi⟩

theorem locate_arrayOffset {a : Nat} (h : arrayOffset a) : ∃ r ∈ arrayRegs, ∃ o, locate a = some (r, o) := by
  apply exists_locate_of_exists_region
  simp only [arrayRegs, List.exists_mem_cons_iff, regOffset, regSize, Config.bufBytes]
  unfold arrayOffset at h
  omega

theorem locate_readOnlyOffset {a : Nat} (h : readOnlyOffset a) : ∃ r ∈ readOnlyRegs, ∃ o, locate a = some (r, o) := by
  apply exists_locate_of_exists_region
  simp only [readOnlyRegs, List.exists_mem_cons_iff, regOffset, regSize]
  unfold readOnlyOffset at h
  omega

theorem locate_reservedOffset {a : Nat} (h : reservedOffset a) : locate a = none := by
  apply locate_none
  simp only [addressMap, List.forall_mem_cons, List.not_mem_nil, false_implies, implies_true, and_true]
  unfold reservedOffset at h
  omega

/-! ## Words as bytes -/

/-- The word at index `o` of a string of bytes given by index (R103). `readReg_eq_wordFrom` ties it to the reads of
the byte-array registers. -/
def wordFrom (f : Nat → Byte) (o : Nat) : Word := wordOfBytes (f o) (f (o + 1)) (f (o + 2)) (f (o + 3))

theorem bytes32_getD (w : Word) {j : Nat} (hj : j < 4) : (bytes32 w).getD j 0 = w.extractLsb' (8 * j) 8 := by
  interval_cases j <;> rfl

/-- Byte `j` of a word is at index `j` from the word's (little-endian, R103). -/
theorem wordFrom_extractLsb' (f : Nat → Byte) (o : Nat) {j : Nat} (hj : j < 4) :
    (wordFrom f o).extractLsb' (8 * j) 8 = f (o + j) := by
  rw [← bytes32_getD _ hj, wordFrom, bytes32_wordOfBytes]
  interval_cases j <;> rfl

theorem wordFrom_congr {f g : Nat → Byte} {o : Nat} (h : ∀ j < 4, f (o + j) = g (o + j)) :
    wordFrom f o = wordFrom g o := by
  have h0 : f o = g o := h 0 (by decide)
  simp only [wordFrom, h0, h 1 (by decide), h 2 (by decide), h 3 (by decide)]

theorem wordFrom_bytes32 (v : Word) : wordFrom (fun i => (bytes32 v).getD i 0) 0 = v :=
  wordOfBytes_bytes32 v

/-- A string of `n` bytes after a store of the word `v` at index `o`. -/
def storeWord (n : Nat) (f : Nat → Byte) (o : Nat) (v : Word) (i : Nat) : Byte :=
  if o ≤ i ∧ i < o + 4 ∧ i < n then (bytes32 v).getD (i - o) 0 else f i

theorem wordFrom_storeWord_same {n o : Nat} (f : Nat → Byte) (v : Word) (h : o + 4 ≤ n) :
    wordFrom (storeWord n f o v) o = v := by
  have hbyte : ∀ j < 4, storeWord n f o v (o + j) = (bytes32 v).getD j 0 := fun j hj => by
    rw [storeWord, if_pos (by omega), Nat.add_sub_cancel_left]
  calc wordFrom (storeWord n f o v) o
      = wordFrom (fun j => storeWord n f o v (o + j)) 0 := rfl
    _ = wordFrom (fun j => (bytes32 v).getD j 0) 0 := wordFrom_congr fun j hj => by
        simpa using hbyte j hj
    _ = v := wordFrom_bytes32 v

/-- Words at different multiples of 4 do not overlap. -/
theorem wordFrom_storeWord_ne {n o o' : Nat} (f : Nat → Byte) (v : Word) (ho : o % 4 = 0) (ho' : o' % 4 = 0)
    (hne : o' ≠ o) : wordFrom (storeWord n f o v) o' = wordFrom f o' :=
  wordFrom_congr fun j hj => by rw [storeWord, if_neg (by omega)]

theorem byteAt_setArrayWord {n : Nat} (a : Vector Byte n) (o : Nat) (v : Word) :
    byteAt (setArrayWord a o v) = storeWord n (byteAt a) o v := by
  funext i
  unfold byteAt storeWord setArrayWord
  by_cases hi : i < n
  · by_cases ho : o ≤ i
    · by_cases hlt : i < o + 4
      · have hsub : i - o < (bytes32 v).length := by rw [bytes32_length]; omega
        simp [List.getD, hi, ho, hlt, List.getElem?_eq_getElem hsub]
      · simp [List.getD, hi, ho, hlt, show ¬ i - o < 4 by omega]
    · simp [List.getD, hi, ho]
  · simp [List.getD, hi]

theorem dbufByte_setDbuf_bytes32 (s : State) (o : Nat) (v : Word) :
    dbufByte (s.setDbuf o (bytes32 v)) = storeWord Config.bufBytes (dbufByte s) o v := by
  funext i
  rw [dbufByte_setDbuf, bytes32_length, storeWord]

/-! ## The byte-array registers -/

/-- The nine byte-array registers (R103): the read/write ones, SK1 and SK2. -/
def byteRegs : List RegName := .sk1 :: .sk2 :: arrayRegs

/-- The bytes of a byte-array register by index. The other registers have none. -/
def State.regByte (s : State) : RegName → Nat → Byte
  | .iv => byteAt s.iv
  | .xiv => byteAt s.xiv
  | .lastIv => byteAt s.lastIv
  | .sk1 => byteAt s.sk1
  | .sk2 => byteAt s.sk2
  | .key => byteAt s.key
  | .skenc => byteAt s.skenc
  | .skmac => byteAt s.skmac
  | .dbuf => dbufByte s
  | .ctrl | .cmd | .status | .len | .crcr => fun _ => 0

theorem readReg_eq_wordFrom (s : State) {r : RegName} (hr : r ∈ byteRegs) (o : Nat) :
    s.readReg r o = wordFrom (s.regByte r) o := by
  cases r with
  | ctrl | cmd | status | len | crcr => exact absurd hr (by decide)
  | _ => rfl

theorem regByte_writeReg (s : State) {r : RegName} (hr : r ∈ arrayRegs) (o : Nat) (v : Word) :
    (s.writeReg r o v).regByte r = storeWord (regSize r) (s.regByte r) o v := by
  cases r with
  | ctrl | cmd | status | len | crcr | sk1 | sk2 => exact absurd hr (by decide)
  | dbuf => exact dbufByte_setDbuf_bytes32 s o v
  | _ => exact byteAt_setArrayWord _ o v

theorem mem_byteRegs_of_mem_arrayRegs {r : RegName} (hr : r ∈ arrayRegs) : r ∈ byteRegs :=
  List.mem_cons_of_mem _ (List.mem_cons_of_mem _ hr)

theorem readReg_writeReg_same (s : State) {r : RegName} (hr : r ∈ arrayRegs) {o : Nat} (v : Word)
    (ho : o + 4 ≤ regSize r) : (s.writeReg r o v).readReg r o = v := by
  rw [readReg_eq_wordFrom _ (mem_byteRegs_of_mem_arrayRegs hr), regByte_writeReg s hr,
    wordFrom_storeWord_same _ v ho]

/-- Byte `j` of word `k` of a byte-array register. -/
theorem readWord_byte (s : State) {r : RegName} (hr : r ∈ byteRegs) {k j : Nat} (hk : 4 * k < regSize r) (hj : j < 4) :
    (s.readWord (regOffset r + 4 * k)).extractLsb' (8 * j) 8 = s.regByte r (4 * k + j) := by
  rw [readWord_of_locate s (locate_regOffset_add hk), readReg_eq_wordFrom s hr, wordFrom_extractLsb' _ _ hj]

/-- Settles O13: `readWord_byte` at each of the nine registers. -/
theorem arrayWordsAreLittleEndian : Obligations.ArrayWordsAreLittleEndian := by
  intro s k j hj
  have word : ∀ r ∈ byteRegs, 4 * k < regSize r →
      (s.readWord (regOffset r + 4 * k)).extractLsb' (8 * j) 8 = s.regByte r (4 * k + j) :=
    fun r hr hk => readWord_byte s hr hk hj
  have block : k < 4 → 4 * k < 16 := by omega
  have keys : k < 6 → 4 * k < 24 := by omega
  have buffer : k < 256 → 4 * k < Config.bufBytes := fun hk => by unfold Config.bufBytes; omega
  exact ⟨fun hk => word .iv (by decide) (block hk), fun hk => word .xiv (by decide) (block hk),
    fun hk => word .lastIv (by decide) (block hk), fun hk => word .sk1 (by decide) (block hk),
    fun hk => word .sk2 (by decide) (block hk), fun hk => word .key (by decide) (keys hk),
    fun hk => word .skenc (by decide) (keys hk), fun hk => word .skmac (by decide) (keys hk),
    fun hk => word .dbuf (by decide) (buffer hk)⟩

/-! ## Which fields a write can change, and which field a read depends on -/

/-- The register a field of the state holds; none for the model's own fields. Tied to the accesses by
`writeReg_agree` and `readReg_of_agree`. -/
def Field.reg : Field → Option RegName
  | .ctrl => some .ctrl
  | .status => some .status
  | .len => some .len
  | .crcr => some .crcr
  | .iv => some .iv
  | .xiv => some .xiv
  | .lastIv => some .lastIv
  | .sk1 => some .sk1
  | .sk2 => some .sk2
  | .key => some .key
  | .skenc => some .skenc
  | .skmac => some .skmac
  | .dbuf => some .dbuf
  | .epoch | .fitted | .pending | .rdata => none

theorem writeReg_readOnly (s : State) {r : RegName} (hr : r ∈ readOnlyRegs) (o : Nat) (v : Word) :
    s.writeReg r o v = s := by
  cases r with
  | status | crcr | sk1 | sk2 => rfl
  | _ => exact absurd hr (by decide)

theorem setDbuf_agree {f : Field} (s : State) (lo : Nat) (bs : List Byte) (hf : f ≠ .dbuf) :
    agree s (s.setDbuf lo bs) f := by
  cases f with
  | dbuf => exact absurd rfl hf
  | _ => rfl

theorem setRdata_agree {f : Field} (s : State) (v : Word) (hf : f ≠ .rdata) : agree s (s.setRdata v) f := by
  cases f with
  | rdata => exact absurd rfl hf
  | dbuf => exact fun _ => rfl
  | _ => rfl

/-- A write to a register changes no field of another register. -/
theorem writeReg_agree {r : RegName} {f : Field} (s : State) (o : Nat) (v : Word) (hf : f.reg ≠ some r) :
    agree s (s.writeReg r o v) f := by
  cases r with
  | cmd | status | crcr | sk1 | sk2 => exact agree_refl s f
  | _ => cases f <;> simp [agree, State.writeReg, Field.reg] at hf ⊢

/-- A write changes the fields of the read/write registers alone. -/
theorem writeReg_frame (s : State) (r : RegName) (o : Nat) (v : Word) :
    frame s (s.writeReg r o v) [.ctrl, .len, .iv, .xiv, .lastIv, .key, .skenc, .skmac, .dbuf] := by
  intro f hf
  by_cases hr : r ∈ readOnlyRegs
  · rw [writeReg_readOnly s hr]
    exact agree_refl s f
  · refine writeReg_agree s o v fun hreg => ?_
    cases f with
    | status | crcr | sk1 | sk2 => cases hreg; exact hr (by decide)
    | epoch | fitted | pending | rdata => cases hreg
    | _ => exact hf (by decide)

theorem readReg_of_agree {s t : State} {r : RegName} (o : Nat) (h : ∀ f : Field, f.reg = some r → agree s t f) :
    t.readReg r o = s.readReg r o := by
  cases r with
  | cmd => rfl
  | ctrl => exact h .ctrl rfl
  | status => exact h .status rfl
  | len => exact congrArg (BitVec.setWidth 32) (h .len rfl)
  | crcr => exact h .crcr rfl
  | iv => exact congrArg (arrayWord · o) (h .iv rfl)
  | xiv => exact congrArg (arrayWord · o) (h .xiv rfl)
  | lastIv => exact congrArg (arrayWord · o) (h .lastIv rfl)
  | sk1 => exact congrArg (arrayWord · o) (h .sk1 rfl)
  | sk2 => exact congrArg (arrayWord · o) (h .sk2 rfl)
  | key => exact congrArg (arrayWord · o) (h .key rfl)
  | skenc => exact congrArg (arrayWord · o) (h .skenc rfl)
  | skmac => exact congrArg (arrayWord · o) (h .skmac rfl)
  | dbuf => exact congrArg (wordFrom · o) (funext (h .dbuf rfl))

/-! ## A read after a write -/

theorem readReg_writeReg_other (s : State) {r r' : RegName} (o o' : Nat) (v : Word) (hne : r' ≠ r) :
    (s.writeReg r o v).readReg r' o' = s.readReg r' o' :=
  readReg_of_agree o' fun _ hf => writeReg_agree s o v fun hf' => hne (Option.some.inj (hf ▸ hf'))

/-- Another word of the register that is written: only the byte-array registers have one. -/
theorem readReg_writeReg_ne (s : State) {r : RegName} {o o' : Nat} (v : Word) (ho : o % 4 = 0) (ho' : o' % 4 = 0)
    (hlt : o < regSize r) (hlt' : o' < regSize r) (hne : o' ≠ o) :
    (s.writeReg r o v).readReg r o' = s.readReg r o' := by
  by_cases hr : r ∈ arrayRegs
  · have hr' := mem_byteRegs_of_mem_arrayRegs hr
    rw [readReg_eq_wordFrom _ hr', readReg_eq_wordFrom s hr', regByte_writeReg s hr,
      wordFrom_storeWord_ne _ v ho ho' hne]
  · cases r with
    | sk1 | sk2 => rfl
    | ctrl | cmd | status | len | crcr => simp only [regSize] at hlt hlt'; omega
    | _ => exact absurd (by decide) hr

theorem writeWord_of_locate {a o : Nat} {r : RegName} (s : State) (v : Word) (h : locate a = some (r, o)) :
    s.writeWord a v = s.writeReg r o v := by
  rw [State.writeWord, h]

theorem writeWord_of_locate_none {a : Nat} (s : State) (v : Word) (h : locate a = none) : s.writeWord a v = s := by
  rw [State.writeWord, h]

theorem readWord_of_locate_none {a : Nat} (s : State) (h : locate a = none) : s.readWord a = 0 := by
  rw [State.readWord, h]

/-- CMD stores nothing (spec/10_state.md R45). -/
theorem readWord_cmd (s : State) : s.readWord 0x004 = 0 := rfl

@[simp] theorem readWord_setPending (s : State) (es : List HostEvent) (a : Nat) :
    (s.setPending es).readWord a = s.readWord a := rfl

@[simp] theorem readWord_setRdata (s : State) (v : Word) (a : Nat) : (s.setRdata v).readWord a = s.readWord a := rfl

theorem readWord_writeWord_ne (s : State) {a b : Nat} (v : Word) (ha : wordOffset a) (hb : wordOffset b)
    (hne : b ≠ a) : (s.writeWord a v).readWord b = s.readWord b := by
  rcases hla : locate a with _ | ⟨r, o⟩
  · rw [writeWord_of_locate_none s v hla]
  rw [writeWord_of_locate s v hla]
  rcases hlb : locate b with _ | ⟨r', o'⟩
  · rw [readWord_of_locate_none _ hlb, readWord_of_locate_none s hlb]
  rw [readWord_of_locate _ hlb, readWord_of_locate s hlb]
  by_cases hr : r' = r
  · subst hr
    obtain ⟨ho, -⟩ := locate_word ha hla
    obtain ⟨ho', -⟩ := locate_word hb hlb
    obtain ⟨rfl, hlt⟩ := locate_some hla
    obtain ⟨rfl, hlt'⟩ := locate_some hlb
    exact readReg_writeReg_ne s v ho ho' hlt hlt' fun h => hne (by rw [h])
  · exact readReg_writeReg_other s o o' v hr

theorem readWord_writeWord_array (s : State) {a : Nat} (v : Word) (ha : wordOffset a) (h : arrayOffset a) :
    (s.writeWord a v).readWord a = v := by
  obtain ⟨r, hr, o, hl⟩ := locate_arrayOffset h
  obtain ⟨-, ho⟩ := locate_word ha hl
  rw [writeWord_of_locate s v hl, readWord_of_locate _ hl, readReg_writeReg_same s hr v ho]

theorem readWord_writeWord_ctrl (s : State) (v : Word) : (s.writeWord 0x000 v).readWord 0x000 = v &&& 0x37 := rfl

/-- LEN stores 16 bits and reads them zero-extended (spec/10_state.md R50). -/
theorem setWidth_setWidth_eq_and (v : Word) : (v.setWidth 16).setWidth 32 = v &&& 0x0000FFFF := by
  apply BitVec.eq_of_getLsbD_eq
  intro i hi
  interval_cases i <;> simp

theorem readWord_writeWord_len (s : State) (v : Word) :
    (s.writeWord 0x00C v).readWord 0x00C = v &&& 0x0000FFFF :=
  setWidth_setWidth_eq_and v

theorem writeWord_frame (s : State) (a : Nat) (v : Word) :
    frame s (s.writeWord a v) [.ctrl, .len, .iv, .xiv, .lastIv, .key, .skenc, .skmac, .dbuf] := by
  rcases hl : locate a with _ | ⟨r, o⟩
  · rw [writeWord_of_locate_none s v hl]
    exact fun f _ => agree_refl s f
  · rw [writeWord_of_locate s v hl]
    exact writeReg_frame s r o v

/-- Settles O11: the step is `writeWord`, and the lemmas above say what the window reads after it. -/
theorem hostWriteStoresOneWord : Obligations.HostWriteStoresOneWord := by
  intro s a v rest hp ha hcmd
  refine ⟨_, step_write hp ha hcmd, fun b hb hne => ?_, ?_, ?_, readWord_writeWord_array _ v ha,
    writeWord_frame _ a v⟩
  · rw [readWord_writeWord_ne _ v ha hb hne, readWord_setPending]
  · rintro rfl
    exact readWord_writeWord_ctrl _ v
  · rintro rfl
    exact readWord_writeWord_len _ v

/-- Settles O8: the step is `setRdata`, which no word of the window shows. -/
theorem readsHaveNoSideEffects : Obligations.ReadsHaveNoSideEffects := by
  intro s a rest hp ha
  refine ⟨_, step_read hp ha, by simp, fun f hf => setRdata_agree _ _ fun h => hf ?_, by simp⟩
  exact List.mem_singleton.2 h

/-- Settles O12: the map lists no register at a reserved offset, `writeReg` keeps a read-only one, and CMD reads 0. -/
theorem reservedOffsetsIgnoreWritesAndReadZero : Obligations.ReservedOffsetsIgnoreWritesAndReadZero := by
  intro s a v rest ha
  refine ⟨fun hp hkind => ?_, fun hp hkind => ?_⟩
  · have hcmd : a ≠ cmdOffset := by
      rintro rfl
      simp only [reservedOffset, readOnlyOffset, cmdOffset] at hkind
      omega
    rw [step_write hp ha hcmd]
    rcases hkind with hres | hro
    · rw [writeWord_of_locate_none _ v (locate_reservedOffset hres)]
    · obtain ⟨r, hr, o, hl⟩ := locate_readOnlyOffset hro
      rw [writeWord_of_locate _ v hl, writeReg_readOnly _ hr]
  · rw [step_read hp ha]
    rcases hkind with hres | rfl
    · rw [readWord_of_locate_none _ (locate_reservedOffset hres)]
    · rw [readWord_cmd]

end Sys2Proof.Machine
end

section
/-! PROOFS. Runs of host accesses (spec/20_memory.md R104, R105; spec/30_encoding.md R152; spec/60_exceptions.md
R333): an accepted access completes and any other is BusError; a program of accepted accesses runs to its end; `LDB`
into DBUF. -/

namespace Sys2Proof.Machine

/-! ## What one host event can do -/

/-- The event is a host access of `width` bytes at offset `a`. -/
def HostEvent.Accesses (e : HostEvent) (width a : Nat) : Prop := e = .read width a ∨ ∃ v, e = .write width a v

theorem runCommand_completes (w : Word) (s : State) : ∃ t, runCommand w s = .next t ∧ t.pending = s.pending := by
  cases hw : decode w with
  | ok i =>
    obtain ⟨t, ht⟩ := exec_completes i s
    exact ⟨t, (runCommand_ok s hw).trans ht, exec_agree (f := .pending) ht id⟩
  | error e => exact ⟨_, runCommand_error s hw, rfl⟩

/-- An accepted event completes and leaves the later events. -/
theorem performEvent_ok {e : HostEvent} (s : State) (he : e.ok = true) :
    ∃ t, performEvent e s = .next t ∧ t.pending = s.pending := by
  cases e with
  | read width a => exact ⟨_, if_pos he, rfl⟩
  | write width a v =>
    have hok : accessOk width a = true := he
    rw [performEvent, if_pos hok]
    by_cases hcmd : a = cmdOffset
    · rw [if_pos hcmd]
      exact runCommand_completes v s
    · rw [if_neg hcmd]
      exact ⟨_, rfl, writeWord_frame s a v .pending (by decide)⟩
  | reset => exact ⟨_, rfl, rfl⟩

theorem performEvent_refused {e : HostEvent} {width a : Nat} (s : State) (he : e.Accesses width a)
    (hbad : ¬ (width = 4 ∧ wordOffset a)) : performEvent e s = .fault (.busError a) := by
  have hno : ¬ accessOk width a = true := fun h => hbad ((accessOk_iff width a).1 h)
  rcases he with rfl | ⟨v, rfl⟩
  · exact if_neg hno
  · exact if_neg hno

/-- An event the engine does not accept is a host access of the wrong width or offset. -/
theorem accesses_of_not_ok {e : HostEvent} (he : ¬ e.ok = true) :
    ∃ width a, e.Accesses width a ∧ ¬ (width = 4 ∧ wordOffset a) := by
  cases e with
  | read width a => exact ⟨width, a, .inl rfl, fun h => he ((accessOk_iff width a).2 h)⟩
  | write width a v => exact ⟨width, a, .inr ⟨v, rfl⟩, fun h => he ((accessOk_iff width a).2 h)⟩
  | reset => exact absurd rfl he

/-- The two things an event can do (R105). -/
theorem performEvent_cases (e : HostEvent) (s : State) :
    (∃ t, performEvent e s = .next t) ∨
      ∃ width a, e.Accesses width a ∧ ¬ (width = 4 ∧ wordOffset a) ∧ performEvent e s = .fault (.busError a) := by
  by_cases he : e.ok = true
  · obtain ⟨t, ht, -⟩ := performEvent_ok s he
    exact .inl ⟨t, ht⟩
  · obtain ⟨width, a, hacc, hbad⟩ := accesses_of_not_ok he
    exact .inr ⟨width, a, hacc, hbad, performEvent_refused s hacc hbad⟩

theorem step_cons {s : State} {e : HostEvent} {rest : List HostEvent} (h : s.pending = e :: rest) :
    step s = performEvent e (s.setPending rest) := by
  rw [step, h]

/-- The next event is a host access of `width` bytes at offset `a`. -/
theorem pending_access_iff {s : State} {rest : List HostEvent} {width a : Nat} :
    (s.pending = .read width a :: rest ∨ ∃ v, s.pending = .write width a v :: rest) ↔
      ∃ e, s.pending = e :: rest ∧ e.Accesses width a := by
  simp only [HostEvent.Accesses]
  constructor
  · rintro (h | ⟨v, h⟩)
    · exact ⟨_, h, .inl rfl⟩
    · exact ⟨_, h, .inr ⟨v, rfl⟩⟩
  · rintro ⟨e, h, rfl | ⟨v, rfl⟩⟩
    · exact .inl h
    · exact .inr ⟨v, h⟩

/-- The two things a step can do: go on, or fault at a refused access. -/
theorem step_cases (s : State) :
    (∃ t, step s = .next t) ∨
      ∃ e rest width a, s.pending = e :: rest ∧ e.Accesses width a ∧ ¬ (width = 4 ∧ wordOffset a) ∧
        step s = .fault (.busError a) := by
  cases hp : s.pending with
  | nil => exact .inl ⟨s, idleStepChangesNothing s hp⟩
  | cons e rest =>
    rw [step_cons hp]
    rcases performEvent_cases e (s.setPending rest) with hnext | ⟨width, a, hacc, hbad, hfault⟩
    · exact .inl hnext
    · exact .inr ⟨e, rest, width, a, rfl, hacc, hbad, hfault⟩

/-- Settles O9 by `step_cases`: a fault is `performEvent_refused`, and no case refuses. -/
theorem stepFaultsExactlyOnRefusedAccess : Obligations.StepFaultsExactlyOnRefusedAccess := by
  intro s
  simp only [pending_access_iff]
  refine ⟨fun a => ⟨fun h => ?_, ?_⟩, fun r h => ?_⟩
  · rcases step_cases s with ⟨t, ht⟩ | ⟨e, rest, width, b, hp, hacc, hbad, hfault⟩
    · cases ht.symm.trans h
    · cases hfault.symm.trans h
      exact ⟨rest, width, hbad, e, hp, hacc⟩
  · rintro ⟨rest, width, hbad, e, hp, hacc⟩
    exact (step_cons hp).trans (performEvent_refused _ hacc hbad)
  · rcases step_cases s with ⟨t, ht⟩ | ⟨_, _, _, _, -, -, -, hfault⟩
    · cases ht.symm.trans h
    · cases hfault.symm.trans h

/-! ## Programs of accepted accesses -/

/-- One step of a safe program takes one event off the list. -/
theorem step_of_hostSafe {s : State} (hs : hostSafe s) : ∃ t, step s = .next t ∧ t.pending = s.pending.tail := by
  cases hp : s.pending with
  | nil => exact ⟨s, idleStepChangesNothing s hp, hp⟩
  | cons e rest =>
    have he : e.ok = true := hs e (hp ▸ List.mem_cons_self)
    rw [step_cons hp]
    exact performEvent_ok (s.setPending rest) he

/-- Settles O10, by induction on the number of steps. -/
theorem safeProgramNeverStops : Obligations.SafeProgramNeverStops := by
  intro n
  induction n with
  | zero => exact fun s hs => ⟨s, rfl, rfl, hs⟩
  | succ n ih =>
    intro s hs
    obtain ⟨t, ht, htail⟩ := step_of_hostSafe hs
    have hsafe : hostSafe t := fun e he => hs e (List.mem_of_mem_tail (htail ▸ he))
    obtain ⟨u, hu, hdrop, husafe⟩ := ih t hsafe
    refine ⟨u, (core_run_succ n s t ht).trans hu, ?_, husafe⟩
    rw [hdrop, htail, List.drop_tail]

/-! ## `LDB` into DBUF -/

/-- The first `m` bytes of a string; "bytes past the end of the list are 0" (R152). Tied to `ldb` by `run_ldb`. -/
def padTo (m : Nat) (bs : List Byte) : List Byte := (List.range m).map (bs.getD · 0)

@[simp] theorem padTo_length (m : Nat) (bs : List Byte) : (padTo m bs).length = m := by
  simp [padTo]

theorem padTo_getD {m j : Nat} (bs : List Byte) (h : j < m) : (padTo m bs).getD j 0 = bs.getD j 0 := by
  simp [padTo, List.getD, h]

theorem padTo_add (m n : Nat) (bs : List Byte) : padTo (m + n) bs = padTo m bs ++ padTo n (bs.drop m) := by
  simp [padTo, List.range_add, List.getD, Function.comp_def]

theorem bytes32_wordFrom_eq_padTo (bs : List Byte) : bytes32 (wordFrom (bs.getD · 0) 0) = padTo 4 bs := by
  rw [wordFrom, bytes32_wordOfBytes]
  rfl

/-- `LDB` of a string with a byte in it: the first word, then `LDB` of the bytes past it. -/
theorem ldb_of_length_pos {off : Nat} {bs : List Byte} (h : 0 < bs.length) :
    ldb off bs = wr off (wordFrom (bs.getD · 0) 0) :: ldb (off + 4) (bs.drop 4) := by
  match bs with
  | [_] | [_, _] | [_, _, _] | _ :: _ :: _ :: _ :: _ => rfl

theorem memStoreBytes_append (m : List Host.Cell) (i : Nat) (as bs : List Byte) :
    memStoreBytes m i (as ++ bs) = memStoreBytes (memStoreBytes m i as) (i + as.length) bs := by
  induction as generalizing m i with
  | nil => rfl
  | cons a as ih =>
    rw [List.cons_append, memStoreBytes, memStoreBytes, ih, List.length_cons, Nat.add_assoc, Nat.add_comm 1]

theorem setDbuf_append (s : State) (o : Nat) (as bs : List Byte) :
    s.setDbuf o (as ++ bs) = (s.setDbuf o as).setDbuf (o + as.length) bs :=
  congrArg (fun m => { s with dbuf := m }) (memStoreBytes_append s.dbuf o as bs)

/-- A write of a word of DBUF. -/
theorem step_write_dbuf {s : State} {o : Nat} {v : Word} {rest : List HostEvent}
    (h : s.pending = wr (0x400 + o) v :: rest) (ho : o % 4 = 0) (hlt : o < 1024) :
    step s = .next ((s.setPending rest).setDbuf o (bytes32 v)) := by
  have hword : wordOffset (0x400 + o) := ⟨by omega, by omega⟩
  have hcmd : 0x400 + o ≠ cmdOffset := by unfold cmdOffset; omega
  have hloc : locate (0x400 + o) = some (.dbuf, o) := locate_regOffset_add (r := .dbuf) hlt
  rw [step_write h hword hcmd, writeWord_of_locate _ v hloc]
  rfl

/-- `LDB DBUF+o, bs` stores whole words: the bytes, with zeros to the end of the last word. -/
theorem run_ldb (n : Nat) (s : State) (o : Nat) (bs : List Byte) (hp : s.pending = ldb (0x400 + o) bs)
    (ho : o % 4 = 0) (hfit : o + bs.length ≤ 1024) (hn : n = (bs.length + 3) / 4) :
    Host.Core.run Sys2Proof.core n s = .next ((s.setPending []).setDbuf o (padTo (4 * n) bs)) := by
  induction n generalizing s o bs with
  | zero =>
    have hbs : bs = [] := List.eq_nil_of_length_eq_zero (by omega)
    subst hbs
    have hidle : s.setPending [] = s := congrArg (fun es => { s with pending := es }) hp.symm
    rw [hidle]
    rfl
  | succ n ih =>
    rw [ldb_of_length_pos (by omega)] at hp
    have hstep := step_write_dbuf hp ho (by omega)
    have hlen : (bs.drop 4).length = bs.length - 4 := List.length_drop
    rw [core_run_succ n s _ hstep, ih _ (o + 4) (bs.drop 4) rfl (by omega) (by omega) (by omega),
      Nat.mul_succ, Nat.add_comm (4 * n), padTo_add, setDbuf_append, bytes32_wordFrom_eq_padTo, padTo_length]
    rfl

/-- Settles O14: by `run_ldb` the program is one store of the bytes padded to whole words. -/
theorem loadBytesProgramFillsBuffer : Obligations.LoadBytesProgramFillsBuffer := by
  intro s o bs hp ho hfit
  have hbuf : Config.bufBytes = 1024 := rfl
  refine ⟨_, run_ldb _ s o bs hp ho hfit rfl, rfl, fun j hj => ?_, fun j hj => ?_, fun f hf => ?_⟩
  · rw [dbufByte_setDbuf, padTo_length, if_pos (by omega), Nat.add_sub_cancel_left, padTo_getD bs (by omega)]
  · exact dbufByte_setDbuf_outside (s.setPending []) o j _ (by rwa [padTo_length])
  · exact setDbuf_agree _ o _ fun h => hf (List.mem_singleton.2 h)

end Sys2Proof.Machine
end

section
/-! PROOFS. The decoder against the encoder and against `Legal(w)` (spec/30_encoding.md R140 to R150). The command
that OP selects (`rowCommand`) is separated from the bits that have to be 0 (`allowedMask`): a word decodes exactly if
it is the word of a well-formed command (`decode_ok_iff_encode`), which is also what legality says
(`legal_iff_encode`). -/

namespace Sys2Proof

open Sys2Proof.Machine

/-! ## The fields of a command word (R140) -/

/-- R140's table, bit by bit. -/
theorem getLsbD_commandWord (op : BitVec 4) (k : BitVec 2) (d m x : Bool) (i : Nat) :
    (commandWord op k d m x).getLsbD i =
      if i < 4 then op.getLsbD i
      else if i < 6 then k.getLsbD (i - 4)
      else if i = 6 then d else if i = 7 then m else if i = 8 then x else false := by
  rw [commandWord, BitVec.getLsbD_append, BitVec.getLsbD_append, BitVec.getLsbD_append, BitVec.getLsbD_append,
    BitVec.getLsbD_append]
  simp only [BitVec.getLsbD_ofBool]
  grind

@[simp] theorem opField_commandWord (op : BitVec 4) (k : BitVec 2) (d m x : Bool) :
    opField (commandWord op k d m x) = op := by
  refine BitVec.eq_of_getLsbD_eq fun i hi => ?_
  rw [opField, BitVec.getLsbD_extractLsb', getLsbD_commandWord]
  simp [hi]

@[simp] theorem kselField_commandWord (op : BitVec 4) (k : BitVec 2) (d m x : Bool) :
    kselField (commandWord op k d m x) = k := by
  refine BitVec.eq_of_getLsbD_eq fun i hi => ?_
  rw [kselField, BitVec.getLsbD_extractLsb', getLsbD_commandWord]
  grind

/-- Masking with a command word masks each field on its own, and clears the reserved bits. -/
theorem and_commandWord (w : Word) (op : BitVec 4) (k : BitVec 2) (d m x : Bool) :
    w &&& commandWord op k d m x =
      commandWord (opField w &&& op) (kselField w &&& k) (w.getLsbD 6 && d) (w.getLsbD 7 && m)
        (w.getLsbD 8 && x) := by
  refine BitVec.eq_of_getLsbD_eq fun i hi => ?_
  simp only [BitVec.getLsbD_and, getLsbD_commandWord, opField, kselField, BitVec.getLsbD_extractLsb']
  grind

/-! ## The encoder's field values against the decoder's -/

@[simp] theorem KeySel.ofBits_toBits (k : KeySel) : KeySel.ofBits k.toBits = k := by cases k <;> rfl
@[simp] theorem Dir.ofBit_toBit (d : Dir) : Dir.ofBit d.toBit = d := by cases d <;> rfl
@[simp] theorem Mode.ofBit_toBit (m : Mode) : Mode.ofBit m.toBit = m := by cases m <;> rfl
@[simp] theorem IvSource.ofBit_toBit (x : IvSource) : IvSource.ofBit x.toBit = x := by cases x <;> rfl

@[simp] theorem KeySel.toBits_ofBits : ∀ b : BitVec 2, (KeySel.ofBits b).toBits = b := by decide
@[simp] theorem Dir.toBit_ofBit (b : Bool) : (Dir.ofBit b).toBit = b := by cases b <;> rfl
@[simp] theorem Mode.toBit_ofBit (b : Bool) : (Mode.ofBit b).toBit = b := by cases b <;> rfl
@[simp] theorem IvSource.toBit_ofBit (b : Bool) : (IvSource.ofBit b).toBit = b := by cases b <;> rfl

/-- KSEL = 3 is the one key select that names no key (R142). -/
@[simp] theorem KeySel.ofBits_wf : ∀ b : BitVec 2, (KeySel.ofBits b).wf = true ↔ b ≠ 3 := by decide

/-! ## The row that OP selects, and the bits it allows (R147, R148) -/

/-- The command of the row of the opcode map that OP selects, its fields read from `w` and no other bit looked
at. -/
def rowCommand (w : Word) : Option Instr :=
  let k := KeySel.ofBits (kselField w)
  match (opField w).toNat with
  | 0 => some .nop
  | 1 => some (.chainx k (Dir.ofBit (w.getLsbD 6)) (Mode.ofBit (w.getLsbD 7)) (IvSource.ofBit (w.getLsbD 8)))
  | 2 => some (.chain k (w.getLsbD 6))
  | 3 => some (.cmacsk k)
  | 4 => some (.cmac k)
  | 5 => some .crc32
  | 6 => some .crc32a
  | 7 => some .crc32v
  | 8 => some .crc16
  | 9 => some .crc16a
  | 10 => some .crc16v
  | 11 => some .clriv
  | 12 => some .clrsess
  | 13 => some .clrctx
  | _ => none

/-- `0xF OR FREE(OP)`: all the bits that may be 1 (R147, R149). -/
def allowedMask (op : BitVec 4) : Word := 0xF ||| freeMask op

/-- OP selects the row of the command that was encoded, and every field is read back. -/
theorem rowCommand_encode (i : Instr) : rowCommand (encode i) = some i := by
  cases i <;> simp [rowCommand, encode, getLsbD_commandWord, -BitVec.getLsbD_eq_getElem]

/-- The table of `FREE(OP)` (R147): KSEL in OP 1 to 4, D in OP 1 and 2, M and X in OP 1. -/
theorem allowedMask_eq : ∀ op : BitVec 4,
    allowedMask op =
      commandWord (.allOnes 4) (if 1 ≤ op ∧ op ≤ 4 then .allOnes 2 else 0#2) (op == 1 || op == 2) (op == 1)
        (op == 1) := by
  decide

/-- The bits of a word that its OP allows, put together again from the fields. -/
theorem and_allowedMask (w : Word) :
    w &&& allowedMask (opField w) =
      commandWord (opField w) (if 1 ≤ opField w ∧ opField w ≤ 4 then kselField w else 0#2)
        (w.getLsbD 6 && (opField w == 1 || opField w == 2)) (w.getLsbD 7 && opField w == 1)
        (w.getLsbD 8 && opField w == 1) := by
  rw [allowedMask_eq, and_commandWord, BitVec.and_allOnes, apply_ite (kselField w &&& ·), BitVec.and_allOnes,
    BitVec.and_zero]

/-- The encoder writes back all the bits of a word that the row allows. -/
theorem encode_rowCommand {w : Word} {i : Instr} (h : rowCommand w = some i) :
    encode i = w &&& allowedMask (opField w) := by
  have hop : opField w = BitVec.ofNat 4 (opField w).toNat := by simp
  rw [and_allowedMask]
  unfold rowCommand at h
  generalize (opField w).toNat = n at h hop
  split at h <;> cases h <;> simp [encode, hop]

/-- A word is the word of a command exactly if its row is that command's and no other bit is 1. -/
theorem encode_eq_iff {w : Word} {i : Instr} :
    encode i = w ↔ rowCommand w = some i ∧ w &&& allowedMask (opField w) = w := by
  constructor
  · rintro rfl
    exact ⟨rowCommand_encode i, (encode_rowCommand (rowCommand_encode i)).symm⟩
  · rintro ⟨hrow, hbits⟩
    exact (encode_rowCommand hrow).trans hbits

/-! ## The decoder -/

theorem decodeRow_ok_iff {w mask pattern : Word} {i j : Instr} :
    decodeRow w mask pattern i = .ok j ↔ w &&& mask = pattern ∧ i = j ∧ j.wf = true := by
  unfold decodeRow
  split
  · split <;> grind
  · simp [*]

theorem freeMask_and_low : ∀ op : BitVec 4, freeMask op &&& 0xF = 0 := by decide

/-- OP as a word is the word's low nibble (R141). -/
theorem ofNat_opField (w : Word) : BitVec.ofNat 32 (opField w).toNat = w &&& 0xF#32 := by
  refine BitVec.eq_of_toNat_eq ?_
  rw [BitVec.toNat_and]
  simp [opField, Nat.and_two_pow_sub_one_eq_mod w.toNat 4]
  omega

/-- A row's mask and match (R148) are FREE(OP) and OP (R147). -/
theorem matches_row_iff (w : Word) :
    w &&& ~~~freeMask (opField w) = BitVec.ofNat 32 (opField w).toNat ↔ w &&& allowedMask (opField w) = w := by
  have hlow := freeMask_and_low (opField w)
  rw [ofNat_opField, allowedMask]
  generalize freeMask (opField w) = f at hlow ⊢
  simp only [BitVec.eq_of_getElem_eq_iff, BitVec.getElem_and, BitVec.getElem_or, BitVec.getElem_not] at hlow ⊢
  grind

/-- The decoder answers the selected row's command, if the word agrees with the row and the command is well
formed. -/
theorem decode_ok_iff {w : Word} {i : Instr} :
    decode w = .ok i ↔
      rowCommand w = some i ∧ w &&& ~~~freeMask (opField w) = BitVec.ofNat 32 (opField w).toNat ∧ i.wf = true := by
  unfold decode rowCommand freeMask
  split <;> simp [*, decodeRow_ok_iff, and_left_comm]

/-- The words that decode to `i` are the word of `i`, if `i` is well formed. -/
theorem decode_ok_iff_encode {w : Word} {i : Instr} : decode w = .ok i ↔ encode i = w ∧ i.wf = true := by
  rw [decode_ok_iff, matches_row_iff, encode_eq_iff, and_assoc]

/-- Settles O1: the right-to-left direction of `decode_ok_iff_encode`. -/
theorem decodeEncodeRoundTrip : Obligations.DecodeEncodeRoundTrip :=
  fun _ hwf => decode_ok_iff_encode.2 ⟨rfl, hwf⟩

/-- Settles O2: the left-to-right direction of `decode_ok_iff_encode`. -/
theorem encodeDecodeRoundTrip : Obligations.EncodeDecodeRoundTrip :=
  fun _ _ h => (decode_ok_iff_encode.1 h).symm

/-! ## Legality -/

theorem and_not_eq_zero_iff (w mask : Word) : w &&& ~~~mask = 0 ↔ w &&& mask = w := by
  simp only [BitVec.eq_of_getElem_eq_iff, BitVec.getElem_and, BitVec.getElem_not]
  grind

/-- OP at most 13 and no reserved key select: what legality asks besides the zero bits. -/
theorem exists_wf_rowCommand_iff (w : Word) :
    (∃ i, rowCommand w = some i ∧ i.wf = true) ↔
      (opField w).toNat ≤ 13 ∧ ¬ (1 ≤ (opField w).toNat ∧ (opField w).toNat ≤ 4 ∧ kselField w = 3) := by
  unfold rowCommand
  split
  case h_15 => grind
  all_goals simp [*, Instr.wf]

/-- The legal words are the words of the well-formed commands. -/
theorem legal_iff_encode (w : Word) : legal w = true ↔ ∃ i, encode i = w ∧ i.wf = true := by
  have hlegal : legal w = true ↔
      (∃ i, rowCommand w = some i ∧ i.wf = true) ∧ w &&& allowedMask (opField w) = w := by
    rw [exists_wf_rowCommand_iff, ← and_not_eq_zero_iff]
    simp only [legal, allowedMask, Bool.and_eq_true, Bool.not_eq_true', beq_iff_eq, decide_eq_true_eq,
      Bool.and_eq_false_iff, decide_eq_false_iff_not, beq_eq_false_iff_ne]
    tauto
  simp only [hlegal, encode_eq_iff]
  constructor
  · rintro ⟨⟨i, hrow, hwf⟩, hbits⟩
    exact ⟨i, ⟨hrow, hbits⟩, hwf⟩
  · rintro ⟨i, ⟨hrow, hbits⟩, hwf⟩
    exact ⟨⟨i, hrow, hwf⟩, hbits⟩

/-- Settles O3: both sides say that `w` is the word of some well-formed command. -/
theorem decoderAcceptsExactlyLegalWords : Obligations.DecoderAcceptsExactlyLegalWords := by
  intro w
  simp only [decode_ok_iff_encode, legal_iff_encode]

theorem decode_error_of_not_legal {w : Word} (h : legal w = false) : ∃ e, decode w = .error e := by
  cases hw : decode w with
  | error e => exact ⟨e, rfl⟩
  | ok i =>
    have hlegal := (decoderAcceptsExactlyLegalWords w).1 ⟨i, hw⟩
    simp [h] at hlegal

/-- Settles O4: the decoder rejects an illegal word (O3), and a rejection writes STATUS alone; a legal word decodes,
and its step is O6's. -/
theorem illegalWordSetsOnlyStatus : Obligations.IllegalWordSetsOnlyStatus := by
  intro s w rest hp
  constructor
  · intro hlegal
    obtain ⟨e, he⟩ := decode_error_of_not_legal hlegal
    refine ⟨_, (step_command hp).trans (runCommand_error _ he), rfl, fun f hf => ?_⟩
    exact agree_setStatus _ (fun h => hf (List.mem_singleton.2 h)) (agree_refl _ f)
  · intro hlegal
    obtain ⟨i, hi⟩ := (decoderAcceptsExactlyLegalWords w).2 hlegal
    exact ⟨i, hi, stepRunsDecodedCommand s w i rest hp hi⟩

/-- Settles O5: the decoder evaluated on the eleven words. -/
theorem specWordsDecode : Obligations.SpecWordsDecode := by
  unfold Obligations.SpecWordsDecode
  decide

end Sys2Proof
end

section
/-! PROOFS. The CRC commands (spec/40_crc.md). CRC-32 and CRC-16 have the same three commands, with another function
and another width, so what holds of both is proved once, for a `CrcKind`. -/

namespace Sys2Proof.Machine

/-! ## The bytes of a CRC -/

theorem bytes16_getD (c : BitVec 16) {j : Nat} (hj : j < 2) : (bytes16 c).getD j 0 = c.extractLsb' (8 * j) 8 := by
  interval_cases j <;> rfl

/-- Settles O22: byte by byte, and by the length of the two lists. -/
theorem crcBytesAreLittleEndian : Obligations.CrcBytesAreLittleEndian :=
  ⟨fun c _ => bytes32_getD c, fun c _ => bytes16_getD c, bytes32_length, bytes16_length⟩

/-! ## The two kinds of CRC

`exec_compute`, `exec_append` and `exec_verify` tie a kind to the machine's commands. -/

/-- CRC-32 (R182 to R184) or CRC-16 (R185 to R187). -/
inductive CrcKind where
  | crc32
  | crc16

namespace CrcKind

/-- How many bytes the CRC has. -/
def width : CrcKind → Nat
  | .crc32 => 4
  | .crc16 => 2

/-- The CRC of the data as CRCR holds it. -/
def value : CrcKind → State → Word
  | .crc32, s => s.dataCrc32
  | .crc16, s => s.dataCrc16a.setWidth 32

/-- The CRC of the data as DBUF holds it. -/
def bytes : CrcKind → State → List Byte
  | .crc32, s => bytes32 s.dataCrc32
  | .crc16, s => bytes16 s.dataCrc16a

/-- The command that computes the CRC. -/
def compute : CrcKind → Instr
  | .crc32 => .crc32
  | .crc16 => .crc16

/-- The command that appends the CRC. -/
def append : CrcKind → Instr
  | .crc32 => .crc32a
  | .crc16 => .crc16a

/-- The command that verifies the CRC. -/
def verify : CrcKind → Instr
  | .crc32 => .crc32v
  | .crc16 => .crc16v

theorem exec_compute (k : CrcKind) (s : State) :
    exec k.compute s = requireRoom 0 s (accepted (s.setCrcr (k.value s))) := by
  cases k <;> rfl

theorem exec_append (k : CrcKind) (s : State) :
    exec k.append s = requireRoom k.width s (accepted ((s.appendCrc (k.bytes s)).setCrcr (k.value s))) := by
  cases k <;> rfl

theorem exec_verify (k : CrcKind) (s : State) :
    exec k.verify s =
      requireRoom k.width s (verified (s.crcMatches (k.bytes s)) (s.setCrcr (k.value s))) := by
  cases k <;> rfl

theorem bytes_length (k : CrcKind) (s : State) : (k.bytes s).length = k.width := by
  cases k <;> rfl

/-- The value is a function of the data and of the CRC functions the engine has. -/
theorem value_congr (k : CrcKind) {s t : State} (hfitted : t.fitted = s.fitted) (hdata : t.data = s.data) :
    k.value t = k.value s := by
  cases k <;> simp only [value, State.dataCrc32, State.dataCrc16a, hfitted, hdata]

theorem bytes_congr (k : CrcKind) {s t : State} (hfitted : t.fitted = s.fitted) (hdata : t.data = s.data) :
    k.bytes t = k.bytes s := by
  cases k <;> simp only [bytes, State.dataCrc32, State.dataCrc16a, hfitted, hdata]

end CrcKind

/-- The commands of this part of the spec. -/
def crcCommands : List Instr := [.crc32, .crc32a, .crc32v, .crc16, .crc16a, .crc16v]

theorem eq_of_mem_crcCommands {i : Instr} (hi : i ∈ crcCommands) :
    i = .crc32 ∨ i = .crc32a ∨ i = .crc32v ∨ i = .crc16 ∨ i = .crc16a ∨ i = .crc16v := by
  simpa [crcCommands] using hi

theorem exists_kind_of_mem_crcCommands {i : Instr} (hi : i ∈ crcCommands) :
    ∃ k : CrcKind, i = k.compute ∨ i = k.append ∨ i = k.verify := by
  rcases eq_of_mem_crcCommands hi with rfl | rfl | rfl | rfl | rfl | rfl
  exacts [⟨.crc32, .inl rfl⟩, ⟨.crc32, .inr (.inl rfl)⟩, ⟨.crc32, .inr (.inr rfl)⟩, ⟨.crc16, .inl rfl⟩,
    ⟨.crc16, .inr (.inl rfl)⟩, ⟨.crc16, .inr (.inr rfl)⟩]

/-! ## What a CRC command writes (R181) -/

/-- A CRC command may write CRCR and STATUS and, if it is an append, DBUF and LEN. -/
theorem mayWrite_crc {i : Instr} {f : Field} (hi : i ∈ crcCommands) (h : MayWrite i f) :
    f = .crcr ∨ f = .status ∨ (f = .dbuf ∨ f = .len) ∧ (i = .crc32a ∨ i = .crc16a) := by
  have hlist := eq_of_mem_crcCommands hi
  cases f with
  | crcr => exact .inl rfl
  | status => exact .inr (.inl rfl)
  | len => exact .inr (.inr ⟨.inr rfl, h⟩)
  | dbuf =>
    have hcipher : needsAligned i = false := by rcases hlist with rfl | rfl | rfl | rfl | rfl | rfl <;> rfl
    exact .inr (.inr ⟨.inl rfl, by simpa [MayWrite, hcipher] using h⟩)
  | _ => rcases hlist with rfl | rfl | rfl | rfl | rfl | rfl <;> simp [MayWrite, usesCipher] at h

theorem exec_crc_frame {i : Instr} {s t : State} (hi : i ∈ crcCommands) (h : exec i s = .next t) :
    frame s t (if i = .crc32a ∨ i = .crc16a then [.crcr, .status, .dbuf, .len] else [.crcr, .status]) := by
  intro f hf
  refine exec_agree h fun hw => hf ?_
  rcases mayWrite_crc hi hw with rfl | rfl | ⟨rfl | rfl, happend⟩
  · split <;> decide
  · split <;> decide
  · simp [happend]
  · simp [happend]

namespace CrcKind

variable (k : CrcKind)

theorem exec_compute_frame {s t : State} (h : exec k.compute s = .next t) : frame s t [.crcr, .status] := by
  cases k <;> exact exec_crc_frame (by decide) h

theorem exec_append_frame {s t : State} (h : exec k.append s = .next t) : frame s t [.dbuf, .len, .crcr, .status] := by
  have hframe : frame s t [.crcr, .status, .dbuf, .len] := by cases k <;> exact exec_crc_frame (by decide) h
  exact fun f hf => hframe f (by simpa [or_comm, or_left_comm] using hf)

theorem exec_verify_frame {s t : State} (h : exec k.verify s = .next t) : frame s t [.crcr, .status] := by
  cases k <;> exact exec_crc_frame (by decide) h

/-! ## The results of the accepted commands -/

/-- What CRC32 and CRC16 leave where LEN is inside the buffer. -/
theorem compute_result {s : State} (h : s.len.toNat ≤ Config.bufBytes) :
    ∃ t, exec k.compute s = .next t ∧ t.crcr = k.value s ∧ t.status = 0 ∧ frame s t [.crcr, .status] := by
  have hexec : exec k.compute s = accepted (s.setCrcr (k.value s)) := (k.exec_compute s).trans (requireRoom_le _ h)
  exact ⟨_, hexec, rfl, rfl, k.exec_compute_frame hexec⟩

/-- What CRC32A and CRC16A leave where the CRC fits after the data. -/
theorem append_result {s : State} (h : s.len.toNat + k.width ≤ Config.bufBytes) :
    ∃ t, exec k.append s = .next t ∧ t.len.toNat = s.len.toNat + k.width ∧ t.crcr = k.value s ∧
      dbufRead t s.len.toNat k.width = k.bytes s ∧
      (∀ i, i < s.len.toNat ∨ s.len.toNat + k.width ≤ i → dbufByte t i = dbufByte s i) ∧
      t.status = 0 ∧ frame s t [.dbuf, .len, .crcr, .status] := by
  have hexec := (k.exec_append s).trans (requireRoom_le _ h)
  rw [← k.bytes_length s] at h ⊢
  exact ⟨_, hexec, appendCrc_lenNat s _ h, rfl, dbufRead_setDbuf_same s _ _ h,
    fun i hi => dbufByte_setDbuf_outside s _ i _ hi, rfl, k.exec_append_frame hexec⟩

end CrcKind

theorem crcMatches_iff (s : State) (c : List Byte) :
    s.crcMatches c = true ↔ dbufRead s s.len.toNat c.length = c := beq_iff_eq

/-! VOK of a verify is its answer, and ERR and ERRCODE are 0 on a mismatch too (R332, R334). -/

theorem vok_setStatus (s : State) (ok : Bool) : (s.setStatus (if ok then 0x2 else 0x0)).vok = ok := by
  cases ok <;> simp [State.vok]

theorem err_setStatus (s : State) (ok : Bool) : (s.setStatus (if ok then 0x2 else 0x0)).err = false := by
  cases ok <;> simp [State.err]

theorem errCode_setStatus (s : State) (ok : Bool) : (s.setStatus (if ok then 0x2 else 0x0)).errCode = 0 := by
  cases ok <;> simp [State.errCode]

/-- What CRC32V and CRC16V leave where the expected CRC is inside the buffer. -/
theorem CrcKind.verify_result (k : CrcKind) {s : State} (h : s.len.toNat + k.width ≤ Config.bufBytes) :
    ∃ t, exec k.verify s = .next t ∧ t.crcr = k.value s ∧
      (t.vok = true ↔ dbufRead s s.len.toNat k.width = k.bytes s) ∧
      t.status = (if t.vok = true then 0x2 else 0x0) ∧ t.err = false ∧ t.errCode = 0 ∧
      frame s t [.crcr, .status] := by
  have hexec := (k.exec_verify s).trans (requireRoom_le _ h)
  rw [← k.bytes_length s, ← crcMatches_iff]
  refine ⟨_, hexec, rfl, ?_, ?_, err_setStatus _ _, errCode_setStatus _ _, k.exec_verify_frame hexec⟩
  · rw [vok_setStatus]
  · rw [vok_setStatus, State.setStatus_status]

/-- Settles O23: `compute_result` for the two kinds. -/
theorem crcComputeResult : Obligations.CrcComputeResult :=
  fun _ h => ⟨CrcKind.crc32.compute_result h, CrcKind.crc16.compute_result h⟩

/-- Settles O24: `append_result` for the two kinds. -/
theorem crcAppendResult : Obligations.CrcAppendResult :=
  fun _ => ⟨CrcKind.crc32.append_result, CrcKind.crc16.append_result⟩

/-- Settles O25: `verify_result` for the two kinds. -/
theorem crcVerifyResult : Obligations.CrcVerifyResult :=
  fun _ => ⟨CrcKind.crc32.verify_result, CrcKind.crc16.verify_result⟩

/-! ## An append, LEN reset, and the matching verify (R188) -/

theorem step_exec {s : State} {i : Instr} {rest : List HostEvent} (hwf : i.wf = true)
    (hp : s.pending = command i :: rest) : step s = exec i (s.setPending rest) :=
  stepRunsDecodedCommand s (encode i) i rest hp (decodeEncodeRoundTrip i hwf)

theorem step_setlen {s : State} {v : BitVec 16} {rest : List HostEvent}
    (hp : s.pending = setlen v.toNat :: rest) : step s = .next ((s.setPending rest).setLen v) := by
  have hloc : locate (regOffset .len) = some (.len, 0) := by decide
  have hlow : (BitVec.ofNat 32 v.toNat).setWidth 16 = v := by
    rw [BitVec.ofNat_toNat, BitVec.setWidth_setWidth_of_le _ (by decide), BitVec.setWidth_eq]
  rw [step_write hp ⟨by decide, by decide⟩ (by decide), writeWord_of_locate _ _ hloc, State.writeReg, hlow]

/-- A verify in a state whose data is that of `s`, with the CRC of that data after it. -/
theorem CrcKind.verify_matches (k : CrcKind) {s u : State} (h : s.len.toNat + k.width ≤ Config.bufBytes)
    (hlen : u.len = s.len) (hfitted : u.fitted = s.fitted) (hdata : u.data = s.data)
    (hcrc : dbufRead u s.len.toNat k.width = k.bytes s) :
    ∃ t, exec k.verify u = .next t ∧ t.vok = true ∧ t.err = false ∧ t.crcr = k.value s := by
  obtain ⟨t, ht, hcrcr, hvok, -, herr, -, -⟩ := k.verify_result (s := u) (hlen ▸ h)
  rw [hlen, k.bytes_congr hfitted hdata] at hvok
  exact ⟨t, ht, hvok.2 hcrc, herr, hcrcr.trans (k.value_congr hfitted hdata)⟩

/-- The append leaves the CRC after the data, and LEN reset gives the verify the same data. -/
theorem CrcKind.append_then_verify (k : CrcKind) {s : State} (h : s.len.toNat + k.width ≤ Config.bufBytes)
    (hp : s.pending = [command k.append, setlen s.len.toNat, command k.verify]) :
    ∃ t : State, Host.Core.run Sys2Proof.core 3 s = .next t ∧ t.vok = true ∧ t.err = false ∧
      t.crcr = k.value s := by
  obtain ⟨t, ht, -, -, hcrc, hkept, -, hframe⟩ :=
    k.append_result (s := s.setPending [setlen s.len.toNat, command k.verify]) h
  have happend : step s = .next t := (step_exec (by cases k <;> rfl) hp).trans ht
  have hsetlen : step t = .next ((t.setPending [command k.verify]).setLen s.len) :=
    step_setlen (hframe .pending (by decide))
  have hdata : dbufRead t 0 s.len.toNat = s.data :=
    dbufRead_congr _ _ _ _ _ fun i hi => hkept _ (.inl (by simpa using hi))
  obtain ⟨u, hu, hresult⟩ :=
    k.verify_matches (u := ((t.setPending [command k.verify]).setLen s.len).setPending []) h rfl
      (hframe .fitted (by decide)) hdata (hcrc.trans (k.bytes_congr rfl rfl))
  have hverify : step ((t.setPending [command k.verify]).setLen s.len) = .next u :=
    (step_exec (by cases k <;> rfl) rfl).trans hu
  refine ⟨u, ?_, hresult⟩
  rw [core_run_succ _ _ _ happend, core_run_succ _ _ _ hsetlen, core_run_succ _ _ _ hverify, core_run_zero]

/-- Settles O26: `append_then_verify` for the two kinds. -/
theorem appendThenVerifyMatches : Obligations.AppendThenVerifyMatches :=
  fun _ => ⟨CrcKind.crc32.append_then_verify, CrcKind.crc16.append_then_verify⟩

/-! ## What a CRC command reads (R181) -/

/-- Two states give a CRC command the same input. -/
structure SameInput (s s' : State) : Prop where
  len : s'.len = s.len
  fitted : s'.fitted = s.fitted
  dbuf : ∀ j, dbufByte s' j = dbufByte s j

/-- Two states show the same output of a CRC command. A rejected one has left CRCR alone. -/
structure SameOutput (t t' : State) : Prop where
  status : t'.status = t.status
  len : t'.len = t.len
  dbuf : ∀ j, dbufByte t' j = dbufByte t j
  crcr : t.err = false → t'.crcr = t.crcr

/-- Two results are states with the same output. -/
def AnswerAlike (r r' : Result) : Prop := ∃ t t', r = .next t ∧ r' = .next t' ∧ SameOutput t t'

theorem err_reject (s : State) (e : EngineError) : (s.reject e).err = true := by
  cases e <;> simp [State.err, reject_eq, EngineError.code]

section

variable {s s' : State} (h : SameInput s s')

include h

theorem SameInput.dbufRead (lo n : Nat) : dbufRead s' lo n = dbufRead s lo n :=
  dbufRead_congr _ _ _ _ _ fun _ _ => h.dbuf _

theorem SameInput.lenNat : s'.lenNat = s.lenNat := congrArg BitVec.toNat h.len

theorem SameInput.data : s'.data = s.data := by
  rw [State.data, h.lenNat, h.dbufRead, State.data]

theorem SameInput.value (k : CrcKind) : k.value s' = k.value s := k.value_congr h.fitted h.data

theorem SameInput.bytes (k : CrcKind) : k.bytes s' = k.bytes s := k.bytes_congr h.fitted h.data

theorem SameInput.crcMatches (c : List Byte) : s'.crcMatches c = s.crcMatches c := by
  rw [State.crcMatches, h.lenNat, h.dbufRead, State.crcMatches]

theorem SameInput.setDbuf (lo : Nat) (bs : List Byte) (j : Nat) :
    dbufByte (s'.setDbuf lo bs) j = dbufByte (s.setDbuf lo bs) j := by
  rw [dbufByte_setDbuf, dbufByte_setDbuf, h.dbuf]

/-- The room check passes both on or rejects both. -/
theorem answerAlike_requireRoom {n : Nat} {go go' : Result} (hgo : AnswerAlike go go') :
    AnswerAlike (requireRoom n s go) (requireRoom n s' go') := by
  by_cases hr : s.lenNat + n ≤ Config.bufBytes
  · rw [requireRoom_le go hr, requireRoom_le go' (h.lenNat ▸ hr)]
    exact hgo
  · rw [requireRoom_gt go hr, requireRoom_gt go' (h.lenNat ▸ hr)]
    exact ⟨_, _, rfl, rfl, rfl, h.len, h.dbuf, fun herr => absurd herr (by simp [err_reject])⟩

theorem answerAlike_compute (k : CrcKind) : AnswerAlike (exec k.compute s) (exec k.compute s') := by
  rw [k.exec_compute, k.exec_compute, h.value k]
  exact answerAlike_requireRoom h ⟨_, _, rfl, rfl, rfl, h.len, h.dbuf, fun _ => rfl⟩

theorem answerAlike_append (k : CrcKind) : AnswerAlike (exec k.append s) (exec k.append s') := by
  rw [k.exec_append, k.exec_append, h.value k, h.bytes k, State.appendCrc, State.appendCrc, h.lenNat]
  exact answerAlike_requireRoom h ⟨_, _, rfl, rfl, rfl, rfl, h.setDbuf _ _, fun _ => rfl⟩

theorem answerAlike_verify (k : CrcKind) : AnswerAlike (exec k.verify s) (exec k.verify s') := by
  rw [k.exec_verify, k.exec_verify, h.value k, h.bytes k, h.crcMatches]
  exact answerAlike_requireRoom h ⟨_, _, rfl, rfl, rfl, h.len, h.dbuf, fun _ => rfl⟩

/-- Equal input gives equal output, command by command. -/
theorem answerAlike_exec {i : Instr} (hi : i ∈ crcCommands) : AnswerAlike (exec i s) (exec i s') := by
  obtain ⟨k, rfl | rfl | rfl⟩ := exists_kind_of_mem_crcCommands hi
  · exact answerAlike_compute h k
  · exact answerAlike_append h k
  · exact answerAlike_verify h k

end

/-- Settles O28: equal input gives equal output (`answerAlike_exec`), and `exec_crc_frame` is the frame, for a
rejected command too. -/
theorem crcReadsOnlyLenAndData : Obligations.CrcReadsOnlyLenAndData := by
  intro i s s' hi hlen hfitted hdbuf
  obtain ⟨t, t', ht, ht', hout⟩ := answerAlike_exec ⟨hlen, hfitted, hdbuf⟩ hi
  exact ⟨t, t', ht, ht', hout.status, hout.len, hout.dbuf, hout.crcr, exec_crc_frame hi ht⟩

end Sys2Proof.Machine
end

section
/-! PROOFS. The chained pass and the chained transform (spec/41_chain.md R222 to R226): block by block what one pass
over a string answers, that a Receive pass undoes a Send pass, and in those terms what `chainTransform` leaves in DBUF
and in the IV registers. -/

namespace Sys2Proof.Machine

/-! ## One pass, block by block (R222, R223) -/

section Pass

variable {d : Dir} {e e' : List Byte → List Byte} {bl : Nat}

/-- The running IV before block `j` of a pass over the blocks `ps` from `x` on. `runningIv_chainTransform` ties it to
the running IV of the statements. -/
def ivBefore (d : Dir) (e : List Byte → List Byte) (ps : List (List Byte)) (x : List Byte) (j : Nat) : List Byte :=
  (passBlocks d e (ps.take j) x).2

theorem ivBefore_length_eq (ps : List (List Byte)) (x : List Byte) :
    ivBefore d e ps x ps.length = (passBlocks d e ps x).2 := by
  rw [ivBefore, List.take_length]

theorem ivBefore_succ {ps : List (List Byte)} {j : Nat} (x : List Byte) (hj : j < ps.length) :
    ivBefore d e ps x (j + 1) = (chainStep d e ps[j] (ivBefore d e ps x j)).2 := by
  rw [ivBefore, List.take_succ_eq_append_getElem hj, passBlocks_append]
  rfl

/-- Block `j` of a pass's output is the output of the step at block `j`. -/
theorem passBlocks_block (he : ∀ b : List Byte, b.length = bl → (e b).length = bl) {ps : List (List Byte)}
    (hps : ∀ p ∈ ps, p.length = bl) {x : List Byte} (hx : x.length = bl) {j : Nat} (hj : j < ps.length) :
    ((passBlocks d e ps x).1.drop (j * bl)).take bl = (chainStep d e ps[j] (ivBefore d e ps x j)).1 := by
  have htake : ∀ p ∈ ps.take j, p.length = bl := fun p hp => hps p (List.mem_of_mem_take hp)
  obtain ⟨hout, hiv⟩ := passBlocks_lengths (d := d) he (ps.take j) x htake hx
  have hstep := (chainStep_lengths (d := d) he (hps ps[j] (List.getElem_mem hj)) hiv).1
  have hsplit : ps = ps.take j ++ ps[j] :: ps.drop (j + 1) := by
    rw [← List.drop_eq_getElem_cons hj, List.take_append_drop]
  have hskip : (passBlocks d e (ps.take j) x).1.length = j * bl := by
    rw [hout, List.length_take_of_le hj.le]
  conv_lhs => rw [hsplit, passBlocks_append, passBlocks]
  rw [List.drop_left' hskip]
  exact List.take_left' hstep

theorem blocksOf_cons {p : List Byte} (rest : List Byte) (hbl : 0 < bl) (hp : p.length = bl) :
    blocksOf bl (p ++ rest) = p :: blocksOf bl rest := by
  have hone : blocksOf bl p = [p] := by
    simp [blocksOf, hp, Nat.div_self hbl, List.take_of_length_le hp.le]
  rw [blocksOf_append bl p rest hbl (by rw [hp, Nat.mod_self]), hone]
  rfl

theorem flatten_blocksOf {src : List Byte} (hbl : 0 < bl) (hsrc : src.length % bl = 0) :
    (blocksOf bl src).flatten = src := by
  obtain ⟨n, hn⟩ := Nat.dvd_of_mod_eq_zero hsrc
  induction n generalizing src with
  | zero => simp [blocksOf, List.eq_nil_of_length_eq_zero hn]
  | succ n ih =>
    rw [Nat.mul_succ] at hn
    have hrest : (src.drop bl).length = bl * n := by rw [List.length_drop]; omega
    have hcut : blocksOf bl src = src.take bl :: blocksOf bl (src.drop bl) := by
      rw [← blocksOf_cons _ hbl (List.length_take_of_le (by omega)), List.take_append_drop]
    rw [hcut, List.flatten_cons, ih (by rw [hrest, Nat.mul_mod_right]) hrest, List.take_append_drop]

/-- R230 for the blocks: a Receive pass with the inverse primitive over a Send pass's output gives the blocks back, and
its final running IV is the Send pass's, the last output block. -/
theorem pass_receive_passBlocks_send (hbl : 0 < bl) (he : ∀ b : List Byte, b.length = bl → (e b).length = bl)
    (hinv : ∀ b : List Byte, b.length = bl → e' (e b) = b) {ps : List (List Byte)}
    (hps : ∀ p ∈ ps, p.length = bl) {x : List Byte} (hx : x.length = bl) :
    pass .receive e' bl (passBlocks .send e ps x).1 x = (ps.flatten, (passBlocks .send e ps x).2) := by
  induction ps generalizing x with
  | nil => exact pass_nil _ _ _ _
  | cons p ps ih =>
    have hp : p.length = bl := hps p List.mem_cons_self
    have hin : (xorBytes p x).length = bl := by rw [xorBytes_length, hp, hx, Nat.min_self]
    have hout : (e (xorBytes p x)).length = bl := he _ hin
    have hback : xorBytes (e' (e (xorBytes p x))) x = p := by
      rw [hinv _ hin, xorBytes_cancel p x (hp.trans hx.symm).le]
    have hrest := ih (fun q hq => hps q (List.mem_cons_of_mem _ hq)) hout
    simp only [passBlocks, chainStep]
    rw [pass, blocksOf_cons _ hbl hout]
    simp only [passBlocks, chainStep, hback]
    rw [← pass, hrest, List.flatten_cons]

/-- R230: the Receive pass with the inverse primitive undoes the Send pass from the same starting IV. -/
theorem pass_receive_pass_send (hbl : 0 < bl) (he : ∀ b : List Byte, b.length = bl → (e b).length = bl)
    (hinv : ∀ b : List Byte, b.length = bl → e' (e b) = b) {src x : List Byte} (hsrc : src.length % bl = 0)
    (hx : x.length = bl) :
    pass .receive e' bl (pass .send e bl src x).1 x = (src, (pass .send e bl src x).2) := by
  have hblocks := pass_receive_passBlocks_send (ps := blocksOf bl src) hbl he hinv
    (fun _ hp => length_of_mem_blocksOf hp) hx
  rwa [flatten_blocksOf hbl hsrc] at hblocks

end Pass

/-! ## What an accepted chained transform leaves -/

/-- The pass that `chainTransform` makes (`chainTransform_eq`): its output and its final running IV. -/
def chainPass (a : Alg) (key : List Byte) (d : Dir) (m : Mode) (x : IvSource) (s : State) : List Byte × List Byte :=
  pass d (prim s.fitted a key m) (blockLen a) s.data (startingIv s x (blockLen a))

section Transform

variable {s : State} {k : KeySel} {reg : KeyBytes} (a : Alg) (key : List Byte) (d : Dir) (m : Mode) (x : IvSource)

/-- The chosen IV register holds the final running IV, over what the D40 reset left there (R224, R225). -/
theorem ivReg_chainTransform :
    (chainTransform a key d m x s).ivReg x = setPrefix (s.d40Reset.ivReg x) (chainPass a key d m x s).2 := by
  rw [chainTransform_eq]
  cases x with
  | context => rfl
  | external => exact congrArg (setPrefix · _) (State.d40Reset_xiv s).symm

theorem startingIv_eq_d40Reset : startingIv s x (blockLen a) = (s.d40Reset.ivReg x).toList.take (blockLen a) :=
  (startIv_d40Reset s x a).symm

theorem dbuf_chainTransform :
    (chainTransform a key d m x s).dbuf = memStoreBytes s.dbuf 0 (chainPass a key d m x s).1 := by
  rw [chainTransform_eq, chainPass]

theorem xiv_chainTransform_context : (chainTransform a key d m .context s).xiv = s.xiv := by
  rw [chainTransform_eq]

theorem iv_chainTransform_external :
    (chainTransform a key d m .external s).iv = if s.chan = .d40 then zeroBlock else s.iv := by
  rw [chainTransform_eq, ← State.d40Reset_iv]

variable {a}

theorem lt_blocks_iff {j : Nat} :
    j < (blocksOf (blockLen a) s.data).length ↔ (j + 1) * blockLen a ≤ s.lenNat := by
  rw [blocksOf_length, data_length]
  exact Nat.le_div_iff_mul_le (blockLen_pos a)

theorem blocksOf_data_getElem {j : Nat} (hj : j < (blocksOf (blockLen a) s.data).length) :
    (blocksOf (blockLen a) s.data)[j] = block s (blockLen a) j := by
  have hfit := lt_blocks_iff.1 hj
  rw [Nat.succ_mul] at hfit
  rw [blocksOf_getElem, State.data, dbufRead_drop_take s 0 _ _ _ hfit, Nat.zero_add, block]

variable (h : ReadyToChain s k a reg)

include h

theorem chainPass_lengths :
    (chainPass a (keyOf a reg) d m x s).1.length = s.lenNat ∧
      (chainPass a (keyOf a reg) d m x s).2.length = blockLen a :=
  chainTransform_lengths d m x h

theorem dbufByte_chainTransform_of_lt {i : Nat} (hi : i < s.lenNat) :
    dbufByte (chainTransform a (keyOf a reg) d m x s) i = (chainPass a (keyOf a reg) d m x s).1.getD i 0 := by
  have hlen := (chainPass_lengths d m x h).1
  rw [dbufByte, memLookup_chainTransform d m x h, if_pos hi, ← chainPass, List.getD_eq_getElem?_getD,
    List.getElem?_eq_getElem (hlen ▸ hi)]
  rfl

/-- A slice of DBUF below LEN is that slice of the pass's output. -/
theorem dbufRead_chainTransform {lo n : Nat} (hn : lo + n ≤ s.lenNat) :
    dbufRead (chainTransform a (keyOf a reg) d m x s) lo n =
      ((chainPass a (keyOf a reg) d m x s).1.drop lo).take n := by
  have hlen := (chainPass_lengths d m x h).1
  have hroom : s.lenNat ≤ Config.bufBytes := h.room
  have hslice := dbufRead_setDbuf_inside s 0 lo n (chainPass a (keyOf a reg) d m x s).1 (by omega) (by omega)
  rw [Nat.zero_add] at hslice
  rw [← hslice, chainTransform_eq]
  rfl

/-- The step of a chained transform at block `j`, from the running IV of its pass. -/
theorem block_chainTransform_eq_step {j : Nat} (hj : (j + 1) * blockLen a ≤ s.lenNat) :
    block (chainTransform a (keyOf a reg) d m x s) (blockLen a) j =
      (chainStep d (prim s.fitted a (keyOf a reg) m) (block s (blockLen a) j)
        (ivBefore d (prim s.fitted a (keyOf a reg) m) (blocksOf (blockLen a) s.data)
          (startingIv s x (blockLen a)) j)).1 := by
  have hlt := lt_blocks_iff.2 hj
  rw [Nat.succ_mul] at hj
  rw [← blocksOf_data_getElem hlt, block, dbufRead_chainTransform d m x h hj]
  exact passBlocks_block (fun b hb => prim_length _ a _ m b (keyOf_length a reg) hb)
    (fun _ hp => length_of_mem_blocksOf hp) (startingIv_length s x a) hlt

/-- The running IV that the statements read off the buffer before and after is the running IV of the pass. -/
theorem runningIv_chainTransform {j : Nat} (hj : j * blockLen a ≤ s.lenNat) :
    runningIv s (chainTransform a (keyOf a reg) d m x s) d x (blockLen a) j =
      ivBefore d (prim s.fitted a (keyOf a reg) m) (blocksOf (blockLen a) s.data)
        (startingIv s x (blockLen a)) j := by
  cases j with
  | zero => rfl
  | succ j =>
    rw [ivBefore_succ _ (lt_blocks_iff.2 hj), blocksOf_data_getElem]
    cases d with
    | send => exact block_chainTransform_eq_step .send m x h hj
    | receive => rfl

/-- Each output block is the chaining step of R222 on the input block and the running IV. -/
theorem block_chainTransform {j : Nat} (hj : (j + 1) * blockLen a ≤ s.lenNat) :
    block (chainTransform a (keyOf a reg) d m x s) (blockLen a) j =
      (chainStep d (prim s.fitted a (keyOf a reg) m) (block s (blockLen a) j)
        (runningIv s (chainTransform a (keyOf a reg) d m x s) d x (blockLen a) j)).1 := by
  rw [block_chainTransform_eq_step d m x h hj,
    runningIv_chainTransform d m x h (le_trans (Nat.mul_le_mul_right _ j.le_succ) hj)]

theorem runningIv_chainTransform_final :
    runningIv s (chainTransform a (keyOf a reg) d m x s) d x (blockLen a) (s.lenNat / blockLen a) =
      (chainPass a (keyOf a reg) d m x s).2 := by
  have hcount : s.lenNat / blockLen a = (blocksOf (blockLen a) s.data).length := by
    rw [blocksOf_length, data_length]
  rw [runningIv_chainTransform d m x h (Nat.div_mul_le_self _ _), hcount, ivBefore_length_eq]
  rfl

/-- The chosen register's first bytes are the final running IV, its others are as the D40 reset left them (R225). -/
theorem ivReg_chainTransform_toList :
    ((chainTransform a (keyOf a reg) d m x s).ivReg x).toList =
      (chainPass a (keyOf a reg) d m x s).2 ++ (s.d40Reset.ivReg x).toList.drop (blockLen a) := by
  have hlen := (chainPass_lengths d m x h).2
  rw [ivReg_chainTransform, setPrefix_toList _ _ (hlen ▸ blockLen_le a), hlen]

theorem ivReg_chainTransform_take :
    ((chainTransform a (keyOf a reg) d m x s).ivReg x).toList.take (blockLen a) =
      (chainPass a (keyOf a reg) d m x s).2 := by
  rw [ivReg_chainTransform_toList d m x h, List.take_left' (chainPass_lengths d m x h).2]

theorem ivReg_chainTransform_drop :
    ((chainTransform a (keyOf a reg) d m x s).ivReg x).toList.drop (blockLen a) =
      (s.d40Reset.ivReg x).toList.drop (blockLen a) := by
  rw [ivReg_chainTransform_toList d m x h, List.drop_left' (chainPass_lengths d m x h).2]

end Transform

end Sys2Proof.Machine
end

section
/-! PROOFS. The chained-cipher commands CHAINX and CHAIN, one at a time and two in a row (spec/41_chain.md R222 to
R233), and the program `ECB1` (R232; spec/30_encoding.md R152). Each statement is one about the transform that the
commands perform. -/

namespace Sys2Proof.Machine

/-! ## CHAINX -/

/-- Settles O29: `block_chainTransform`, the step written out for the two directions. -/
theorem chainxOutputBlocks : Obligations.ChainxOutputBlocks := by
  intro s k d m x a reg h
  refine ⟨_, exec_chainx_ready d m x h, rfl, fun j hj => (block_chainTransform d m x h hj).trans ?_⟩
  cases d <;> rfl

/-- Settles O30: the chosen register by `ivReg_chainTransform_take` and `_drop`, the other one by the transform's
frame. -/
theorem chainxIvWriteBack : Obligations.ChainxIvWriteBack := by
  intro s k d m x a reg h
  have hdrop := ivReg_chainTransform_drop d m x h
  refine ⟨_, exec_chainx_ready d m x h, ?_, ?_, ?_⟩
  · exact (ivReg_chainTransform_take d m x h).trans (runningIv_chainTransform_final d m x h).symm
  · rintro rfl
    refine ⟨hdrop.trans ?_, xiv_chainTransform_context a (keyOf a reg) d m⟩
    rw [State.ivReg, State.d40Reset_iv]
    split
    · exact List.drop_replicate
    · rfl
  · rintro rfl
    exact ⟨hdrop.trans (by rw [State.ivReg, State.d40Reset_xiv]), iv_chainTransform_external a (keyOf a reg) d m⟩

/-- Settles O33: the pass over no data is `pass_nil`, and a register's own first bytes written back change nothing. -/
theorem chainxOfEmptyData : Obligations.ChainxOfEmptyData := by
  intro s k d m x a reg h hlen
  have hdata : s.data = [] := List.eq_nil_of_length_eq_zero (by rw [data_length, State.lenNat, hlen]; rfl)
  have hpass : chainPass a (keyOf a reg) d m x s = ([], startingIv s x (blockLen a)) := by
    rw [chainPass, hdata, pass_nil]
  have hreg : (chainTransform a (keyOf a reg) d m x s).ivReg x = s.d40Reset.ivReg x := by
    rw [ivReg_chainTransform, hpass, ← startIv_d40Reset]
    exact setPrefix_self _ _
  have hdbuf : (chainTransform a (keyOf a reg) d m x s).dbuf = s.dbuf := by
    rw [dbuf_chainTransform, hpass]
    rfl
  refine ⟨_, exec_chainx_ready d m x h, hdbuf, rfl, ?_⟩
  cases x with
  | context => exact ⟨xiv_chainTransform_context a (keyOf a reg) d m, hreg.trans (State.d40Reset_iv s)⟩
  | external => exact ⟨hreg.trans (State.d40Reset_xiv s), iv_chainTransform_external a (keyOf a reg) d m⟩

/-! ## CHAIN (R227 to R229) -/

theorem resolveDir_eq (enc : Bool) : resolveDir enc = if enc = true then .send else .receive := rfl

theorem resolveMode_eq (enc : Bool) (c : Chan) :
    resolveMode enc c = if enc = true ∧ c ≠ .d40 then .encode else .decode := by
  cases enc <;> cases c <;> rfl

/-- Settles O32: both commands perform the one transform. -/
theorem chainIsChainxResolved : Obligations.ChainIsChainxResolved := by
  intro s k enc a reg h
  refine ⟨_, exec_chain_ready enc h, ?_⟩
  rw [exec_chainx_ready _ _ _ h, resolveDir_eq, resolveMode_eq]
  rfl

/-- Under D40 the host's two directions both use Dec (R228, R229). -/
theorem exec_chain_d40 {s : State} {k : KeySel} {a : Alg} {reg : KeyBytes} (enc : Bool) (h : ReadyToChain s k a reg)
    (hd40 : s.chan = .d40) :
    exec (.chain k enc) s = accepted (chainTransform a (keyOf a reg) (resolveDir enc) .decode .context s) := by
  have hmode : resolveMode enc .d40 = .decode := by cases enc <;> rfl
  rw [exec_chain_ready enc h, hd40, hmode]

theorem startingIv_d40 {s : State} (bl : Nat) (hd40 : s.chan = .d40) : startingIv s .context bl = zeroBytes bl :=
  if_pos hd40

theorem startingIv_not_d40 {s : State} (bl : Nat) (hd40 : s.chan ≠ .d40) :
    startingIv s .context bl = s.iv.toList.take bl :=
  if_neg hd40

/-- Settles O34: `block_chainTransform` for the two transforms, the running IV read off for block 0 and for a later
one. -/
theorem d40ChainUsesDecBothWays : Obligations.D40ChainUsesDecBothWays := by
  intro s k a reg h hd40
  refine ⟨_, _, exec_chain_d40 true h hd40, exec_chain_d40 false h hd40, fun j hj => ?_⟩
  have hsend := block_chainTransform .send .decode .context h hj
  have hreceive := block_chainTransform .receive .decode .context h hj
  cases j with
  | zero =>
    simp only [runningIv, startingIv_d40 _ hd40] at hsend hreceive
    exact ⟨hsend, hreceive⟩
  | succ j => exact ⟨hsend, hreceive⟩

/-! ## A Receive after a Send (R229, R230) -/

theorem chan_congr {s t : State} (h : t.ctrl = s.ctrl) : t.chan = s.chan := by
  rw [State.chan, h, ← State.chan]

theorem alg_congr {s t : State} (h : t.ctrl = s.ctrl) : t.alg = s.alg := by
  rw [State.alg, h, ← State.alg]

theorem data_getD {s : State} {i : Nat} (hi : i < s.lenNat) : s.data.getD i 0 = dbufByte s i := by
  simp [State.data, dbufRead, List.getD, hi]

/-- The fields that a chained transform and the host's putting an IV back may change. -/
def chainFields : List Field := [.dbuf, .iv, .xiv, .status]

theorem readyToChain_of_frame {s t : State} {k : KeySel} {a : Alg} {reg : KeyBytes} (hframe : frame s t chainFields)
    (h : ReadyToChain s k a reg) : ReadyToChain t k a reg where
  key := by
    rw [← h.key]
    cases k with
    | static => exact congrArg some (hframe .key (by decide))
    | senc => exact congrArg some (hframe .skenc (by decide))
    | smac => exact congrArg some (hframe .skmac (by decide))
    | reserved => rfl
  alg := (alg_congr (hframe .ctrl (by decide))).trans h.alg
  room := (congrArg BitVec.toNat (hframe .len (by decide))).trans_le h.room
  aligned := by rw [hframe .len (by decide)]; exact h.aligned

/-- `t` is a state from which the peer receives what a Send from `s` left: the same operands, the Send's output in
DBUF, and the starting IV put back. -/
structure AfterSend (a : Alg) (key : List Byte) (m : Mode) (x : IvSource) (s t : State) : Prop where
  frame : frame s t chainFields
  dbuf : ∀ i, dbufByte t i = dbufByte (chainTransform a key .send m x s) i
  iv : t.d40Reset.ivReg x = s.d40Reset.ivReg x

section AfterSend

variable {s t : State} {k : KeySel} {a : Alg} {reg : KeyBytes} {m m' : Mode} {x : IvSource}
  (h : ReadyToChain s k a reg) (ht : AfterSend a (keyOf a reg) m x s t)
  (hinv : ∀ b : List Byte, b.length = blockLen a →
    prim s.fitted a (keyOf a reg) m' (prim s.fitted a (keyOf a reg) m b) = b)

include ht

theorem AfterSend.lenNat : t.lenNat = s.lenNat := congrArg BitVec.toNat (ht.frame .len (by decide))

include h

theorem AfterSend.data : t.data = (chainPass a (keyOf a reg) .send m x s).1 := by
  have hlen := (chainPass_lengths .send m x h).1
  calc t.data = dbufRead (chainTransform a (keyOf a reg) .send m x s) 0 s.lenNat := by
        rw [State.data, ht.lenNat]
        exact dbufRead_congr _ _ _ _ _ fun i _ => ht.dbuf _
    _ = _ := by
        rw [dbufRead_chainTransform .send m x h (Nat.zero_add _).le, List.drop_zero, List.take_of_length_le hlen.le]

include hinv

theorem AfterSend.chainPass_receive :
    chainPass a (keyOf a reg) .receive m' x t = (s.data, (chainPass a (keyOf a reg) .send m x s).2) := by
  have hiv : startingIv t x (blockLen a) = startingIv s x (blockLen a) := by
    rw [startingIv_eq_d40Reset, ht.iv, ← startingIv_eq_d40Reset]
  rw [chainPass, hiv, ht.data h, ht.frame .fitted (by decide)]
  exact pass_receive_pass_send (blockLen_pos a) (fun b hb => prim_length _ a _ m b (keyOf_length a reg) hb) hinv
    (by rw [data_length]; exact h.aligned) (startingIv_length s x a)

/-- The Receive restores every byte of DBUF, and leaves the IV that the Send left. -/
theorem AfterSend.receive :
    (∀ i, dbufByte (chainTransform a (keyOf a reg) .receive m' x t) i = dbufByte s i) ∧
      (chainTransform a (keyOf a reg) .receive m' x t).ivReg x =
        (chainTransform a (keyOf a reg) .send m x s).ivReg x := by
  have hready := readyToChain_of_frame ht.frame h
  have hpass := ht.chainPass_receive h hinv
  constructor
  · intro i
    by_cases hi : i < s.lenNat
    · rw [dbufByte_chainTransform_of_lt _ _ _ hready (ht.lenNat.symm ▸ hi), hpass, data_getD hi]
    · have hle := Nat.not_lt.1 hi
      rw [dbufByte_chainTransform_of_le _ _ _ hready (ht.lenNat.symm ▸ hle), ht.dbuf,
        dbufByte_chainTransform_of_le _ _ _ h hle]
  · rw [ivReg_chainTransform, ivReg_chainTransform, hpass, ht.iv]

end AfterSend

theorem frame_accepted_chainTransform (a : Alg) (key : List Byte) (d : Dir) (m : Mode) (x : IvSource) (s : State) :
    frame s ((chainTransform a key d m x s).setStatus 0) chainFields := by
  intro f hf
  have hne : ∀ g ∈ chainFields, f ≠ g := fun g hg hfg => hf (hfg ▸ hg)
  exact agree_setStatus 0 (hne .status (by decide))
    (chainTransform_agree a key d m x s (hne .dbuf (by decide)) (hne .iv (by decide)) fun _ => hne .xiv (by decide))

theorem frame_setIvReg {s t : State} (x : IvSource) (v : BlockReg) (h : frame s t chainFields) :
    frame s (t.setIvReg x v) chainFields := by
  intro f hf
  have hkept := h f hf
  cases f with
  | iv | xiv => exact absurd (by decide) hf
  | _ => cases x <;> exact hkept

theorem dbufByte_setIvReg (s : State) (x : IvSource) (v : BlockReg) (i : Nat) :
    dbufByte (s.setIvReg x v) i = dbufByte s i := by
  cases x <;> rfl

/-- The D40 reset makes of two states with the same chosen register, both D40 or both not, the same again. -/
theorem d40Reset_ivReg_congr {s t : State} {x : IvSource} (hctrl : t.ctrl = s.ctrl) (hiv : t.ivReg x = s.ivReg x) :
    t.d40Reset.ivReg x = s.d40Reset.ivReg x := by
  cases x with
  | context => exact (State.d40Reset_iv t).trans ((if_congr (by rw [chan_congr hctrl]) rfl hiv).trans
      (State.d40Reset_iv s).symm)
  | external => exact (State.d40Reset_xiv t).trans (hiv.trans (State.d40Reset_xiv s).symm)

theorem d40Reset_ivReg_d40 {s : State} (hd40 : s.chan = .d40) : s.d40Reset.ivReg .context = zeroBlock :=
  (State.d40Reset_iv s).trans (if_pos hd40)

theorem ivReg_setIvReg (s : State) (x : IvSource) (v : BlockReg) : (s.setIvReg x v).ivReg x = v := by
  cases x <;> rfl

/-- R230 for either pairing of the primitives. -/
theorem chainx_roundTrip {s : State} {k : KeySel} {a : Alg} {reg : KeyBytes} {m m' : Mode} (x : IvSource)
    (h : ReadyToChain s k a reg)
    (hinv : ∀ b : List Byte, b.length = blockLen a →
      prim s.fitted a (keyOf a reg) m' (prim s.fitted a (keyOf a reg) m b) = b) :
    ∃ t u, exec (.chainx k .send m x) s = .next t ∧
      exec (.chainx k .receive m' x) (t.setIvReg x (s.ivReg x)) = .next u ∧
      (∀ i, dbufByte u i = dbufByte s i) ∧ u.ivReg x = t.ivReg x := by
  have hframe := frame_setIvReg x (s.ivReg x) (frame_accepted_chainTransform a (keyOf a reg) .send m x s)
  have hafter : AfterSend a (keyOf a reg) m x s
      (((chainTransform a (keyOf a reg) .send m x s).setStatus 0).setIvReg x (s.ivReg x)) :=
    ⟨hframe, dbufByte_setIvReg _ x _, d40Reset_ivReg_congr (hframe .ctrl (by decide)) (ivReg_setIvReg _ x _)⟩
  obtain ⟨hbytes, hiv⟩ := hafter.receive h hinv
  refine ⟨_, _, exec_chainx_ready .send m x h, exec_chainx_ready .receive m' x (readyToChain_of_frame hframe h),
    hbytes, ?_⟩
  cases x <;> exact hiv

/-- Settles O37: `chainx_roundTrip` for the two pairings. -/
theorem chainxRoundTrip : Obligations.ChainxRoundTrip :=
  fun _ _ x _ _ h => ⟨chainx_roundTrip (m := .encode) (m' := .decode) x h,
    chainx_roundTrip (m := .decode) (m' := .encode) x h⟩

/-- Under D40 every pass on IV starts from zero, so nothing has to be put back before the Receive. -/
theorem afterSend_d40 {s : State} (a : Alg) (key : List Byte) (m : Mode) (hd40 : s.chan = .d40) :
    AfterSend a key m .context s ((chainTransform a key .send m .context s).setStatus 0) where
  frame := frame_accepted_chainTransform a key .send m .context s
  dbuf _ := rfl
  iv := by
    have hctrl := frame_accepted_chainTransform a key .send m .context s .ctrl (by decide)
    rw [d40Reset_ivReg_d40 hd40, d40Reset_ivReg_d40 ((chan_congr hctrl).trans hd40)]

/-- Settles O35: the host's CHAIN is the Send, or the Receive, with mode Decode, and the peer's command the other one
with mode Encode. -/
theorem d40PeerInvertsHost : Obligations.D40PeerInvertsHost := by
  intro s k a reg h hd40
  have hready := fun m => readyToChain_of_frame (frame_accepted_chainTransform a (keyOf a reg) .send m .context s) h
  constructor
  · intro hinv
    obtain ⟨hbytes, -⟩ := (afterSend_d40 a (keyOf a reg) .decode hd40).receive (m' := .encode) h hinv
    exact ⟨_, _, exec_chain_d40 true h hd40, exec_chainx_ready .receive .encode .context (hready .decode), hbytes⟩
  · intro hinv
    have hafter := afterSend_d40 a (keyOf a reg) .encode hd40
    obtain ⟨hbytes, -⟩ := hafter.receive (m' := .decode) h hinv
    have hd40' := (chan_congr (hafter.frame .ctrl (by decide))).trans hd40
    exact ⟨_, _, exec_chainx_ready .send .encode .context h, exec_chain_d40 false (hready .encode) hd40', hbytes⟩

/-! ## Two commands over two parts (R233) -/

/-- A pass over data in two parts: a pass over each part, the second from the IV the first leaves. -/
theorem chainPass_append {s s1 s2 : State} {a : Alg} (key : List Byte) (d : Dir) (m : Mode) (x : IvSource)
    (hf1 : s1.fitted = s.fitted) (hf2 : s2.fitted = s.fitted) (hdata : s.data = s1.data ++ s2.data)
    (haligned : s1.lenNat % blockLen a = 0)
    (hiv1 : startingIv s1 x (blockLen a) = startingIv s x (blockLen a))
    (hiv2 : startingIv s2 x (blockLen a) = (chainPass a key d m x s1).2) :
    chainPass a key d m x s =
      ((chainPass a key d m x s1).1 ++ (chainPass a key d m x s2).1, (chainPass a key d m x s2).2) := by
  have h2 : chainPass a key d m x s2 =
      pass d (prim s.fitted a key m) (blockLen a) s2.data (chainPass a key d m x s1).2 := by
    rw [chainPass, hiv2, hf2]
  have h1 : chainPass a key d m x s1 =
      pass d (prim s.fitted a key m) (blockLen a) s1.data (startingIv s x (blockLen a)) := by
    rw [chainPass, hiv1, hf1]
  rw [h2, h1, ← pass_append _ _ _ _ _ _ (blockLen_pos a) (by rw [data_length]; exact haligned), ← hdata]
  rfl

/-- CHAIN and CHAINX on IV perform one transform, with the direction and the mode that the command and the channel
fix. -/
theorem exec_on_iv {c : Instr} {k : KeySel} (hc : (∃ d m, c = .chainx k d m .context) ∨ ∃ enc, c = .chain k enc)
    (ch : Chan) :
    ∃ d m, ∀ (s : State) (a : Alg) (reg : KeyBytes), s.chan = ch → ReadyToChain s k a reg →
      exec c s = accepted (chainTransform a (keyOf a reg) d m .context s) := by
  rcases hc with ⟨d, m, rfl⟩ | ⟨enc, rfl⟩
  · exact ⟨d, m, fun _ _ _ _ h => exec_chainx_ready d m .context h⟩
  · exact ⟨resolveDir enc, resolveMode enc ch, fun _ _ _ hch h => hch ▸ exec_chain_ready enc h⟩

/-- The bytes of two transforms side by side, where their passes' outputs are. -/
theorem dbufByte_chainTransform_append {s s1 s2 : State} {k : KeySel} {a : Alg} {reg : KeyBytes} (d : Dir) (m : Mode)
    (x : IvSource) (h : ReadyToChain s k a reg) (h1 : ReadyToChain s1 k a reg) (h2 : ReadyToChain s2 k a reg)
    (hout : (chainPass a (keyOf a reg) d m x s).1 =
      (chainPass a (keyOf a reg) d m x s1).1 ++ (chainPass a (keyOf a reg) d m x s2).1) :
    (∀ j < s1.lenNat, dbufByte (chainTransform a (keyOf a reg) d m x s) j =
      dbufByte (chainTransform a (keyOf a reg) d m x s1) j) ∧
    (∀ j < s2.lenNat, dbufByte (chainTransform a (keyOf a reg) d m x s) (s1.lenNat + j) =
      dbufByte (chainTransform a (keyOf a reg) d m x s2) j) := by
  have hlen1 := (chainPass_lengths d m x h1).1
  have hlen : s.lenNat = s1.lenNat + s2.lenNat := by
    rw [← (chainPass_lengths d m x h).1, hout, List.length_append, hlen1, (chainPass_lengths d m x h2).1]
  constructor
  · intro j hj
    rw [dbufByte_chainTransform_of_lt d m x h (by omega), dbufByte_chainTransform_of_lt d m x h1 hj, hout,
      List.getD_append _ _ _ _ (hlen1.symm ▸ hj)]
  · intro j hj
    rw [dbufByte_chainTransform_of_lt d m x h (by omega), dbufByte_chainTransform_of_lt d m x h2 hj, hout,
      List.getD_append_right _ _ _ _ (by omega), hlen1, Nat.add_sub_cancel_left]

theorem iv_chainTransform_not_d40 {s : State} (a : Alg) (key : List Byte) (d : Dir) (m : Mode)
    (hd40 : s.chan ≠ .d40) :
    (chainTransform a key d m .context s).iv = setPrefix s.iv (chainPass a key d m .context s).2 := by
  have hiv : s.d40Reset.ivReg .context = s.iv := (State.d40Reset_iv s).trans (if_neg hd40)
  rw [← hiv, ← ivReg_chainTransform]
  rfl

/-- R233 for the transform: over the data of `s1` and, from the IV it leaves, over that of `s2` it does what it does
over both. -/
theorem chainTransform_append {s s1 s2 : State} {k : KeySel} {a : Alg} {reg : KeyBytes} (d : Dir) (m : Mode)
    (h : ReadyToChain s k a reg) (h1 : ReadyToChain s1 k a reg) (h2 : ReadyToChain s2 k a reg) (hd40 : s.chan ≠ .d40)
    (hctrl1 : s1.ctrl = s.ctrl) (hctrl2 : s2.ctrl = s.ctrl) (hf1 : s1.fitted = s.fitted) (hf2 : s2.fitted = s.fitted)
    (hdata : s.data = s1.data ++ s2.data) (hiv1 : s1.iv = s.iv)
    (hiv2 : s2.iv = (chainTransform a (keyOf a reg) d m .context s1).iv) :
    (∀ j < s1.lenNat, dbufByte (chainTransform a (keyOf a reg) d m .context s) j =
      dbufByte (chainTransform a (keyOf a reg) d m .context s1) j) ∧
    (∀ j < s2.lenNat, dbufByte (chainTransform a (keyOf a reg) d m .context s) (s1.lenNat + j) =
      dbufByte (chainTransform a (keyOf a reg) d m .context s2) j) ∧
    (chainTransform a (keyOf a reg) d m .context s).iv = (chainTransform a (keyOf a reg) d m .context s2).iv := by
  have hch1 : s1.chan ≠ .d40 := chan_congr hctrl1 ▸ hd40
  have hch2 : s2.chan ≠ .d40 := chan_congr hctrl2 ▸ hd40
  have hstart1 : startingIv s1 .context (blockLen a) = startingIv s .context (blockLen a) := by
    rw [startingIv_not_d40 _ hch1, startingIv_not_d40 _ hd40, hiv1]
  have hstart2 : startingIv s2 .context (blockLen a) = (chainPass a (keyOf a reg) d m .context s1).2 := by
    rw [startingIv_not_d40 _ hch2, hiv2]
    exact ivReg_chainTransform_take d m .context h1
  have hpass := chainPass_append (keyOf a reg) d m .context hf1 hf2 hdata h1.aligned hstart1 hstart2
  obtain ⟨hbytes1, hbytes2⟩ := dbufByte_chainTransform_append d m .context h h1 h2 (congrArg Prod.fst hpass)
  refine ⟨hbytes1, hbytes2, ?_⟩
  have hlen : (chainPass a (keyOf a reg) d m .context s1).2.length ≤
      (chainPass a (keyOf a reg) d m .context s2).2.length :=
    ((chainPass_lengths d m .context h1).2.trans (chainPass_lengths d m .context h2).2.symm).le
  rw [iv_chainTransform_not_d40 a _ d m hd40, iv_chainTransform_not_d40 a _ d m hch2, hiv2,
    iv_chainTransform_not_d40 a _ d m hch1, setPrefix_setPrefix _ _ _ hlen, hiv1, hpass]

/-- Settles O38: `chainTransform_append`, where the first command runs from `s` with LEN set to `n1`. -/
theorem chainingAcrossCommands : Obligations.ChainingAcrossCommands := by
  intro c s s2 t1 k a reg n1 n2 hc h hd40 hlen hn1 hexec1 hkey2 hctrl2 hfitted2 hiv2 hlen2 hdata2
  obtain ⟨d, m, hexec⟩ := exec_on_iv hc s.chan
  have hroom : n1 + n2 ≤ Config.bufBytes := hlen ▸ h.room
  have hbuf : Config.bufBytes = 1024 := rfl
  have hn2 : n2 % blockLen a = 0 := by
    have hsum := h.aligned
    rwa [hlen, Nat.add_mod, hn1, Nat.zero_add, Nat.mod_mod] at hsum
  have hlen1 : (s.setLen (BitVec.ofNat 16 n1)).lenNat = n1 := by
    rw [State.lenNat, State.setLen_len, BitVec.toNat_ofNat, Nat.mod_eq_of_lt (by omega)]
  have h1 : ReadyToChain (s.setLen (BitVec.ofNat 16 n1)) k a reg :=
    ⟨(State.setLen_keyReg s _ k).trans h.key, h.alg, hlen1.trans_le (by omega),
      (congrArg (· % blockLen a) hlen1).trans hn1⟩
  have h2 : ReadyToChain s2 k a reg :=
    ⟨hkey2, (alg_congr hctrl2).trans h.alg, by omega, (congrArg (· % blockLen a) hlen2).trans hn2⟩
  have hparts : s.data = (s.setLen (BitVec.ofNat 16 n1)).data ++ s2.data := by
    have hpart2 : dbufRead s2 0 n2 = dbufRead s n1 n2 :=
      dbufRead_congr _ _ _ _ _ fun j hj => by rw [Nat.zero_add, hdata2 j hj]
    rw [State.data, State.data, State.data, hlen1, State.lenNat, State.lenNat, hlen, hlen2, hpart2, dbufRead_add,
      Nat.zero_add, dbufRead_setLen]
  obtain rfl := (accepted_eq_next _ _).1 ((hexec (s.setLen (BitVec.ofNat 16 n1)) a reg rfl h1).symm.trans hexec1)
  obtain ⟨hbytes1, hbytes2, hiv⟩ := chainTransform_append d m h h1 h2 hd40 rfl hctrl2 rfl hfitted2 hparts rfl hiv2
  refine ⟨_, _, hexec s a reg rfl h, hexec s2 a reg (chan_congr hctrl2) h2,
    fun j hj => hbytes1 j (hj.trans_eq hlen1.symm), fun j hj => ?_, hiv⟩
  have hbyte := hbytes2 j (hj.trans_eq hlen2.symm)
  rwa [hlen1] at hbyte

/-! ## `ECB1` (R232) -/

theorem eq_of_byteAt {n : Nat} {a b : Vector Byte n} (h : ∀ i < n, byteAt a i = byteAt b i) : a = b :=
  Vector.ext fun i hi => by simpa [byteAt, List.getD, hi] using h i hi

theorem byteAt_zeroBlock (i : Nat) : byteAt zeroBlock i = 0 :=
  List.getElem?_getD_replicate_default_eq _ 16 i

theorem bytes32_zero_getD (j : Nat) : (bytes32 0).getD j 0 = 0 :=
  match j with
  | 0 | 1 | 2 | 3 | _ + 4 => rfl

/-- Four zero words fill a block register with zeros. -/
theorem setArrayWord_zeros (v : BlockReg) :
    setArrayWord (setArrayWord (setArrayWord (setArrayWord v 0 0) 4 0) 8 0) 12 0 = zeroBlock := by
  refine eq_of_byteAt fun i hi => ?_
  simp only [byteAt_setArrayWord, storeWord, bytes32_zero_getD, byteAt_zeroBlock]
  split_ifs
  · rfl
  · rfl
  · rfl
  · rfl
  · omega

/-- A write of a word of XIV. -/
theorem step_write_xiv {s : State} {o : Nat} {v : Word} {rest : List HostEvent}
    (h : s.pending = wr (regOffset .xiv + o) v :: rest) (ho : o % 4 = 0) (hlt : o < 16) :
    step s = .next ((s.setPending rest).setXiv (setArrayWord s.xiv o v)) := by
  have hoff : regOffset .xiv = 48 := rfl
  have hword : wordOffset (regOffset .xiv + o) := ⟨by omega, by omega⟩
  have hcmd : regOffset .xiv + o ≠ cmdOffset := by unfold cmdOffset; omega
  have hloc : locate (regOffset .xiv + o) = some (.xiv, o) := locate_regOffset_add hlt
  rw [step_write h hword hcmd, writeWord_of_locate _ v hloc]
  rfl

theorem keySel_wf_of_keyReg {s : State} {k : KeySel} {reg : KeyBytes} (h : s.keyReg k = some reg) : k.wf = true := by
  cases k with
  | reserved => cases h
  | _ => rfl

theorem setPending_setXiv (s : State) (v : BlockReg) (es : List HostEvent) :
    (s.setXiv v).setPending es = (s.setPending es).setXiv v := rfl

theorem setXiv_setXiv (s : State) (v w : BlockReg) : (s.setXiv v).setXiv w = s.setXiv w := rfl

theorem setPending_setPending (s : State) (es fs : List HostEvent) :
    (s.setPending es).setPending fs = s.setPending fs := rfl

/-- The four writes that `ECB1` begins with zero XIV. -/
theorem run_zero_xiv (n : Nat) {s : State} {rest : List HostEvent}
    (hp : s.pending = wr (regOffset .xiv) 0 :: wr (regOffset .xiv + 4) 0 :: wr (regOffset .xiv + 8) 0 ::
      wr (regOffset .xiv + 12) 0 :: rest) :
    Host.Core.run Sys2Proof.core (n + 4) s = Host.Core.run Sys2Proof.core n ((s.setPending rest).setXiv zeroBlock) := by
  rw [core_run_succ _ _ _ (step_write_xiv (o := 0) hp (by decide) (by decide)),
    core_run_succ _ _ _ (step_write_xiv (o := 4) rfl (by decide) (by decide)),
    core_run_succ _ _ _ (step_write_xiv (o := 8) rfl (by decide) (by decide)),
    core_run_succ _ _ _ (step_write_xiv (o := 12) rfl (by decide) (by decide))]
  simp only [setPending_setXiv, setXiv_setXiv, setPending_setPending, State.setXiv_xiv, setArrayWord_zeros]

/-- `ECB1` is CHAINX Send, Encode on a zeroed external IV (R152). -/
theorem run_ecb1 {s t : State} {k : KeySel} (hwf : k.wf = true) (hp : s.pending = ecb1 k)
    (ht : exec (.chainx k .send .encode .external) ((s.setPending []).setXiv zeroBlock) = .next t) :
    Host.Core.run Sys2Proof.core 5 s = .next t := by
  have hcommand := step_exec (i := .chainx k .send .encode .external) (rest := [])
    (s := (s.setPending [command (.chainx k .send .encode .external)]).setXiv zeroBlock) hwf rfl
  rw [run_zero_xiv 1 hp, core_run_succ 0 _ t (hcommand.trans ht), core_run_zero]

theorem zeroBlock_take (a : Alg) : zeroBlock.toList.take (blockLen a) = zeroBytes (blockLen a) := by
  cases a <;> rfl

/-- From a zeroed external IV one block is enciphered alone, and its cipher is the IV left. -/
theorem chainTransform_one_block {s : State} {k : KeySel} {a : Alg} {reg : KeyBytes} (h : ReadyToChain s k a reg)
    (hlen : s.lenNat = blockLen a) (hxiv : s.xiv = zeroBlock) :
    let t := chainTransform a (keyOf a reg) .send .encode .external s
    block t (blockLen a) 0 = encBlock s.fitted a (keyOf a reg) (block s (blockLen a) 0) ∧
      t.xiv.toList.take (blockLen a) = encBlock s.fitted a (keyOf a reg) (block s (blockLen a) 0) := by
  intro t
  have hstart : runningIv s t .send .external (blockLen a) 0 = zeroBytes (blockLen a) := by
    rw [runningIv, startingIv, hxiv, zeroBlock_take]
  have hblock : block t (blockLen a) 0 = encBlock s.fitted a (keyOf a reg) (block s (blockLen a) 0) := by
    rw [block_chainTransform .send .encode .external h (by omega), hstart]
    simp only [chainStep, prim]
    rw [xorBytes_zeroBytes _ _ (by rw [block, dbufRead_length])]
  have hfinal := runningIv_chainTransform_final .send .encode .external h
  rw [hlen, Nat.div_self (blockLen_pos a)] at hfinal
  exact ⟨hblock, (ivReg_chainTransform_take .send .encode .external h).trans (hfinal.symm.trans hblock)⟩

/-- Settles O39: `run_ecb1`, and `chainTransform_one_block` in the state it leads to. -/
theorem ecb1ProgramEnciphersOneBlock : Obligations.Ecb1ProgramEnciphersOneBlock := by
  intro s k a reg hp h hlen
  have hready : ReadyToChain ((s.setPending []).setXiv zeroBlock) k a reg :=
    ⟨by rw [State.setXiv_keyReg, State.setPending_keyReg, h.key], h.alg, h.room, h.aligned⟩
  obtain ⟨hblock, hxiv⟩ := chainTransform_one_block hready hlen rfl
  exact ⟨_, run_ecb1 (keySel_wf_of_keyReg h.key) hp (exec_chainx_ready .send .encode .external hready), rfl, hblock,
    hxiv, iv_chainTransform_external a (keyOf a reg) .send .encode⟩

end Sys2Proof.Machine
end

section
/-! PROOFS. Under D40 no cipher command takes notice of what IV held (spec/41_chain.md R224, R231). What the check order
accepts is first turned into the operands that the commands' effects are stated with. -/

namespace Sys2Proof.Machine

/-! ## The commands that the check order accepts (spec/60_exceptions.md R331) -/

section Checked

variable {s : State} {i : Instr} {k : KeySel}

theorem exists_alg_of_algValue (h : ¬ algValue s > 3) :
    ∃ a, s.alg = some a ∧ blockLen a = blOfValue (algValue s) := by
  unfold algValue at h ⊢
  unfold State.alg
  obtain hv | hv | hv | hv : (s.ctrl.extractLsb' 0 3).toNat = 0 ∨ (s.ctrl.extractLsb' 0 3).toNat = 1 ∨
      (s.ctrl.extractLsb' 0 3).toNat = 2 ∨ (s.ctrl.extractLsb' 0 3).toNat = 3 := by omega
  all_goals rw [hv]; exact ⟨_, rfl, rfl⟩

theorem exists_keyReg_of_wf (h : k.wf = true) : ∃ reg, s.keyReg k = some reg :=
  Option.ne_none_iff_exists'.1 fun hn => by
    rw [(keyReg_eq_none s k).1 hn] at h
    cases h

theorem room_of_overruns {n : Nat} (hn : roomNeeded i = some n) (h : overruns i s = false) :
    s.len.toNat + n ≤ Config.bufBytes := by
  simpa [overruns, hn] using h

theorem checks_of_firstError (h : firstError i s = none) :
    i.wf = true ∧ ¬ (usesCipher i = true ∧ algValue s > 3) ∧ overruns i s = false ∧
      ¬ (needsAligned i = true ∧ s.len.toNat % blOfValue (algValue s) ≠ 0) := by
  unfold firstError at h
  split_ifs at h with hwf halg hroom haligned
  exact ⟨Bool.of_not_eq_false hwf, halg, Bool.of_not_eq_true hroom, haligned⟩

variable (h : firstError i s = none) (hwf : i.wf = k.wf) (hcipher : usesCipher i = true)

include h hwf hcipher

/-- An accepted cipher command finds a key and an algorithm, and CTRL gives that algorithm's block length. -/
theorem exists_operands_of_firstError :
    ∃ a reg, s.keyReg k = some reg ∧ s.alg = some a ∧ blockLen a = blOfValue (algValue s) := by
  obtain ⟨hi, halg, -, -⟩ := checks_of_firstError h
  obtain ⟨reg, hreg⟩ := exists_keyReg_of_wf (s := s) (hwf ▸ hi)
  obtain ⟨a, ha, hbl⟩ := exists_alg_of_algValue fun hv => halg ⟨hcipher, hv⟩
  exact ⟨a, reg, hreg, ha, hbl⟩

theorem exists_readyToMac_of_firstError (hroom : roomNeeded i = some 0) : ∃ a reg, ReadyToMac s k a reg := by
  obtain ⟨a, reg, hreg, ha, -⟩ := exists_operands_of_firstError h hwf hcipher
  obtain ⟨-, -, hoverruns, -⟩ := checks_of_firstError h
  exact ⟨a, reg, hreg, ha, room_of_overruns hroom hoverruns⟩

theorem exists_readyToChain_of_firstError (hroom : roomNeeded i = some 0) (haligned : needsAligned i = true) :
    ∃ a reg, ReadyToChain s k a reg := by
  obtain ⟨a, reg, hreg, ha, hbl⟩ := exists_operands_of_firstError h hwf hcipher
  obtain ⟨-, -, hoverruns, hlen⟩ := checks_of_firstError h
  refine ⟨a, reg, hreg, ha, room_of_overruns hroom hoverruns, ?_⟩
  rw [hbl]
  exact by_contra fun hne => hlen ⟨haligned, hne⟩

end Checked

/-! ## Under D40 what IV held does not matter (R224, R231) -/

section IgnoreIv

variable {s : State} {k : KeySel} {a : Alg} {reg : KeyBytes} (v : BlockReg)

theorem readyToChain_setIv (h : ReadyToChain s k a reg) : ReadyToChain (s.setIv v) k a reg :=
  ⟨(State.setIv_keyReg s v k).trans h.key, h.alg, h.room, h.aligned⟩

theorem readyToMac_setIv (h : ReadyToMac s k a reg) : ReadyToMac (s.setIv v) k a reg :=
  ⟨(State.setIv_keyReg s v k).trans h.key, h.alg, h.room⟩

variable (hd40 : s.chan = .d40)

include hd40

/-- The D40 reset forgets IV; every cipher pass begins with it. -/
theorem d40Reset_setIv : (s.setIv v).d40Reset = s.d40Reset :=
  (if_pos hd40).trans (if_pos hd40 : s.d40Reset = s.setIv zeroBlock).symm

theorem chainTransform_setIv (key : List Byte) (d : Dir) (m : Mode) (x : IvSource) :
    chainTransform a key d m x (s.setIv v) = chainTransform a key d m x s := by
  rw [chainTransform, chainTransform, d40Reset_setIv v hd40, State.setIv_fitted]

theorem withSubkeys_setIv (key : List Byte) : withSubkeys a key (s.setIv v) = withSubkeys a key s := by
  rw [withSubkeys, withSubkeys, d40Reset_setIv v hd40, State.setIv_fitted]

theorem macTransform_setIv (key : List Byte) : macTransform a key (s.setIv v) = macTransform a key s := by
  rw [macTransform, macTransform, withSubkeys_setIv v hd40, State.setIv_fitted, State.setIv_chan]

end IgnoreIv

/-- Settles O36: each cipher command's effect begins with the D40 reset. -/
theorem d40CommandsIgnoreIv : Obligations.D40CommandsIgnoreIv := by
  intro i s v hd40 hcipher h
  cases i with
  | chainx k d m x =>
    obtain ⟨a, reg, hready⟩ := exists_readyToChain_of_firstError (k := k) h rfl rfl rfl rfl
    refine ⟨_, exec_chainx_ready d m x hready, (exec_chainx_ready d m x (readyToChain_setIv v hready)).trans ?_⟩
    rw [chainTransform_setIv v hd40, accepted]
  | chain k enc =>
    obtain ⟨a, reg, hready⟩ := exists_readyToChain_of_firstError (k := k) h rfl rfl rfl rfl
    refine ⟨_, exec_chain_ready enc hready, (exec_chain_ready enc (readyToChain_setIv v hready)).trans ?_⟩
    rw [chainTransform_setIv v hd40, State.setIv_chan, accepted]
  | cmacsk k =>
    obtain ⟨a, reg, hkey, halg, -⟩ := exists_operands_of_firstError (k := k) h rfl rfl
    refine ⟨_, exec_cmacsk_ready hkey halg,
      (exec_cmacsk_ready ((State.setIv_keyReg s v k).trans hkey) halg).trans ?_⟩
    rw [withSubkeys_setIv v hd40, accepted]
  | cmac k =>
    obtain ⟨a, reg, hready⟩ := exists_readyToMac_of_firstError (k := k) h rfl rfl rfl
    refine ⟨_, exec_cmac_ready hready, (exec_cmac_ready (readyToMac_setIv v hready)).trans ?_⟩
    rw [macTransform_setIv v hd40, accepted]
  | _ => cases hcipher

end Sys2Proof.Machine
end

section
/-! PROOFS. The subkey doubling and the padding of CMAC (spec/42_cmac.md R260, R263): what `dbl` does to each byte, read
off the bits of the block's integer, and what `padded` does to the data, in closed form and block by block. -/

namespace Sys2Proof.Machine

/-! ## Doubling (R260) -/

theorem getLsbD_beBytes {n i j : Nat} (x : Nat) (hi : i < n) (hj : j < 8) :
    ((beBytes n x).getD i 0).getLsbD j = x.testBit (8 * (n - 1 - i) + j) := by
  have hbyte : (beBytes n x).getD i 0 = BitVec.ofNat 8 (x / 256 ^ (n - 1 - i)) := by simp [beBytes, List.getD, hi]
  have hpow : 256 ^ (n - 1 - i) = 2 ^ (8 * (n - 1 - i)) := (pow_mul 2 8 _).symm
  rw [hbyte, BitVec.getLsbD_ofNat, hpow, Nat.testBit_div_two_pow, decide_eq_true hj, Bool.true_and, Nat.add_comm]

/-- Bit `j` of byte `i` as a bit of the block's integer (R18). -/
theorem getLsbD_byte {v : List Byte} {i j : Nat} (hi : i < v.length) (hj : j < 8) :
    (v.getD i 0).getLsbD j = (beNat v).testBit (8 * (v.length - 1 - i) + j) := by
  conv_lhs => rw [← beBytes_beNat v]
  exact getLsbD_beBytes _ hi hj

theorem testBit_double (x n m : Nat) :
    (x * 2 % 2 ^ n).testBit m = (decide (m < n) && decide (1 ≤ m) && x.testBit (m - 1)) := by
  rw [Nat.testBit_mod_two_pow, ← pow_one 2, Nat.testBit_mul_two_pow, Bool.and_assoc]

/-- A byte shifted left by one, the top bit of the next byte carried in. -/
theorem getLsbD_zero_shiftIn (b c : Byte) : (b <<< 1 ||| c >>> 7).getLsbD 0 = c.getLsbD 7 := by simp

theorem getLsbD_succ_shiftIn {j : Nat} (b c : Byte) (hj : j + 1 < 8) :
    (b <<< 1 ||| c >>> 7).getLsbD (j + 1) = b.getLsbD j := by
  have hcarry : c.getLsbD (7 + (j + 1)) = false := BitVec.getLsbD_of_ge c _ (by omega)
  simp [hcarry, hj, Nat.lt_of_succ_lt hj]

/-- The shifted integer's byte `i` is byte `i` shifted, with the top bit of the next byte carried in. -/
theorem beBytes_double_getD {v : List Byte} {i : Nat} (hi : i < v.length) :
    (beBytes v.length (beNat v * 2 % 2 ^ (8 * v.length))).getD i 0 =
      v.getD i 0 <<< 1 ||| v.getD (i + 1) 0 >>> 7 := by
  apply BitVec.eq_of_getLsbD_eq
  intro j hj
  rw [getLsbD_beBytes _ hi hj, testBit_double, decide_eq_true (by omega), Bool.true_and]
  cases j with
  | zero =>
    rw [getLsbD_zero_shiftIn]
    by_cases hnext : i + 1 < v.length
    · have hbit : 8 * (v.length - 1 - i) + 0 - 1 = 8 * (v.length - 1 - (i + 1)) + 7 := by omega
      rw [getLsbD_byte hnext (by omega), hbit, decide_eq_true (by omega), Bool.true_and]
    · rw [decide_eq_false (by omega), Bool.false_and, List.getD_eq_default _ _ (by omega)]
      rfl
  | succ j =>
    rw [getLsbD_succ_shiftIn _ _ hj, getLsbD_byte hi (by omega), decide_eq_true (by omega), Bool.true_and,
      ← Nat.add_assoc, Nat.add_sub_cancel]

@[simp] theorem dbl_length (v : List Byte) : (dbl v).length = v.length := by
  unfold dbl
  simp only [apply_ite List.length, List.length_set, beBytes_length, ite_self]

theorem dbl_getD {v : List Byte} {i : Nat} (hi : i < v.length) :
    (dbl v).getD i 0 =
      (v.getD i 0 <<< 1 ||| v.getD (i + 1) 0 >>> 7) ^^^
        (if i + 1 = v.length ∧ (v.getD 0 0).getLsbD 7 = true then rb v.length else 0) := by
  rw [← beBytes_double_getD hi]
  unfold dbl
  dsimp only
  split
  · next htop =>
    by_cases hlast : i + 1 = v.length
    · have hset : v.length - 1 = i := by omega
      rw [if_pos ⟨hlast, htop⟩, hset, List.getD_eq_getElem?_getD, List.getElem?_set_self (by rwa [beBytes_length])]
      rfl
    · have hset : v.length - 1 ≠ i := by omega
      rw [if_neg fun h => hlast h.1, List.getD_eq_getElem?_getD, List.getElem?_set_ne hset]
      exact BitVec.xor_zero.symm
  · next htop =>
    rw [if_neg fun h => htop h.2]
    exact BitVec.xor_zero.symm

/-- Settles O40: `dbl_getD`, for blocks of any length. -/
theorem doublingShiftsAcrossBytes : Obligations.DoublingShiftsAcrossBytes :=
  fun v _ => ⟨dbl_length v, fun _ hi => dbl_getD hi⟩

/-! ## Padding (R263) -/

section Padding

variable {bl : Nat} {d sk sk1 sk2 : List Byte}

/-- The zeros after the 0x80 end at the next block boundary. -/
theorem padZeros_eq (n : Nat) (hbl : 0 < bl) : padZeros bl n = bl - 1 - n % bl := by
  have hlt := Nat.mod_lt n hbl
  unfold padZeros
  rw [← Nat.mod_add_mod]
  obtain hfull | hpart : n % bl + 1 = bl ∨ n % bl + 1 < bl := by omega
  · rw [hfull, Nat.mod_self, Nat.sub_zero, Nat.mod_self]
    omega
  · rw [Nat.mod_eq_of_lt hpart, Nat.mod_eq_of_lt (by omega)]
    omega

theorem xorLast_append (front : List Byte) (h : bl ≤ d.length) :
    xorLast bl (front ++ d) sk = front ++ xorLast bl d sk := by
  have hlen : (front ++ d).length - bl = front.length + (d.length - bl) := by rw [List.length_append]; omega
  rw [xorLast, hlen, List.take_length_add_append, List.drop_length_add_append, List.append_assoc, xorLast]

theorem xorLast_block (h : d.length = bl) : xorLast bl d sk = xorBytes d sk := by
  rw [xorLast, h, Nat.sub_self]
  rfl

theorem xorLast_length (h : bl ≤ d.length) (hsk : sk.length = bl) : (xorLast bl d sk).length = d.length := by
  simp only [xorLast, List.length_append, List.length_take, List.length_drop, xorBytes_length, hsk]
  omega

/-- Complete data that is not empty holds a block. -/
theorem le_of_complete (hne : d.length ≠ 0) (h : d.length % bl = 0) : bl ≤ d.length :=
  Nat.le_of_dvd (Nat.pos_of_ne_zero hne) (Nat.dvd_of_mod_eq_zero h)

theorem padded_of_complete (hne : d.length ≠ 0) (h : d.length % bl = 0) :
    padded bl d sk1 sk2 = xorLast bl d sk1 :=
  if_neg fun hor => hor.elim hne fun hmod => hmod h

/-- What the `sk2` branch completes: the bytes past the last whole block, 0x80 and zeros. -/
theorem fill_length (hbl : 0 < bl) :
    (d.drop (d.length / bl * bl) ++ 0x80 :: zeroBytes (bl - 1 - d.length % bl)).length = bl := by
  have hlt := Nat.mod_lt d.length hbl
  have hdiv := Nat.div_add_mod' d.length bl
  simp only [List.length_append, List.length_drop, List.length_cons, zeroBytes_length]
  omega

theorem padded_of_incomplete (hbl : 0 < bl) (h : d.length = 0 ∨ d.length % bl ≠ 0) :
    padded bl d sk1 sk2 =
      d.take (d.length / bl * bl) ++
        xorBytes (d.drop (d.length / bl * bl) ++ 0x80 :: zeroBytes (bl - 1 - d.length % bl)) sk2 := by
  have hfill := fill_length (d := d) hbl
  have hsplit : d ++ [0x80] ++ zeroBytes (padZeros bl d.length) =
      d.take (d.length / bl * bl) ++
        (d.drop (d.length / bl * bl) ++ 0x80 :: zeroBytes (bl - 1 - d.length % bl)) := by
    rw [padZeros_eq _ hbl, ← List.append_assoc (d.take _), List.take_append_drop, List.append_assoc]
    rfl
  rw [padded, if_pos h, hsplit, xorLast_append _ hfill.ge, xorLast_block hfill]

/-- Data of less than one block, no data among it. -/
theorem padded_of_lt (h : d.length < bl) :
    padded bl d sk1 sk2 = xorBytes (d ++ [0x80] ++ zeroBytes (bl - d.length - 1)) sk2 := by
  have hmod : d.length % bl = d.length := Nat.mod_eq_of_lt h
  rw [padded_of_incomplete (Nat.zero_lt_of_lt h) (by rw [hmod]; exact Classical.em _), Nat.div_eq_of_lt h, hmod,
    Nat.zero_mul, Nat.sub_right_comm, List.append_assoc]
  rfl

theorem padded_length_of_complete (hne : d.length ≠ 0) (h : d.length % bl = 0) (h1 : sk1.length = bl) :
    (padded bl d sk1 sk2).length = d.length := by
  rw [padded_of_complete hne h, xorLast_length (le_of_complete hne h) h1]

theorem padded_length_of_incomplete (hbl : 0 < bl) (h : d.length = 0 ∨ d.length % bl ≠ 0) (h2 : sk2.length = bl) :
    (padded bl d sk1 sk2).length = (d.length / bl + 1) * bl := by
  rw [padded_of_incomplete hbl h, List.length_append, xorBytes_length, fill_length hbl, h2, Nat.min_self,
    List.length_take_of_le (Nat.div_mul_le_self _ _), Nat.succ_mul]

/-- The padded data is as many blocks as hold the data, and one for no data. -/
theorem padded_length (hbl : 0 < bl) (h1 : sk1.length = bl) (h2 : sk2.length = bl) :
    (padded bl d sk1 sk2).length = if d.length = 0 then bl else (d.length + bl - 1) / bl * bl := by
  have hdiv := Nat.div_add_mod' d.length bl
  have hlt := Nat.mod_lt d.length hbl
  by_cases hne : d.length = 0
  · rw [padded_length_of_incomplete hbl (.inl hne) h2, if_pos hne, hne, Nat.zero_div, Nat.zero_add, Nat.one_mul]
  · rw [if_neg hne]
    by_cases h : d.length % bl = 0
    · have hceil : (d.length + bl - 1) / bl = d.length / bl :=
        Nat.div_eq_of_lt_le (by omega) (by rw [Nat.succ_mul]; omega)
      rw [padded_length_of_complete hne h h1, hceil]
      omega
    · have hceil : (d.length + bl - 1) / bl = d.length / bl + 1 :=
        Nat.div_eq_of_lt_le (by rw [Nat.succ_mul]; omega) (by rw [Nat.succ_mul, Nat.succ_mul]; omega)
      rw [padded_length_of_incomplete hbl (.inr h) h2, hceil]

theorem padded_length_mod (hbl : 0 < bl) (h1 : sk1.length = bl) (h2 : sk2.length = bl) :
    (padded bl d sk1 sk2).length % bl = 0 := by
  rw [padded_length hbl h1 h2]
  split
  · exact Nat.mod_self bl
  · exact Nat.mul_mod_left _ bl

/-- Settles O41: the two branches by `padded_of_complete` and `padded_of_incomplete`, no data by `padded_of_lt`. -/
theorem paddingFillsLastBlock : Obligations.PaddingFillsLastBlock := by
  intro bl d sk1 sk2 hbl h1 h2
  have hpos : 0 < bl := by omega
  refine ⟨fun hzero => ?_, padded_of_complete, fun hpart => padded_of_incomplete hpos (.inr hpart),
    padded_length hpos h1 h2⟩
  rw [padded_of_lt (hzero.trans_lt hpos), List.eq_nil_of_length_eq_zero hzero]
  rfl

/-- A whole block in front of more data stays as it is. -/
theorem padded_block_append {p : List Byte} (hbl : 0 < bl) (hp : p.length = bl) (hne : d.length ≠ 0) :
    padded bl (p ++ d) sk1 sk2 = p ++ padded bl d sk1 sk2 := by
  have hlen : (p ++ d).length = bl + d.length := by rw [List.length_append, hp]
  have hmod : (p ++ d).length % bl = d.length % bl := by rw [hlen, Nat.add_mod_left]
  by_cases h : d.length % bl = 0
  · rw [padded_of_complete (by omega) (hmod.trans h), padded_of_complete hne h,
      xorLast_append p (le_of_complete hne h)]
  · have hfloor : (p ++ d).length / bl * bl = p.length + d.length / bl * bl := by
      rw [hlen, Nat.add_div_left _ hbl, Nat.succ_mul, hp, Nat.add_comm]
    rw [padded_of_incomplete hbl (.inr (hmod ▸ h)), padded_of_incomplete hbl (.inr h), hmod, hfloor,
      List.take_length_add_append, List.drop_length_add_append, List.append_assoc]

end Padding

/-! ## The pass over the padded data is the CMAC chain (R264, R266) -/

section MacChain

variable {e : List Byte → List Byte} {bl : Nat} {d sk1 sk2 : List Byte}

theorem pass_send_block_append (x : List Byte) {p : List Byte} (rest : List Byte) (hbl : 0 < bl) (hp : p.length = bl) :
    (pass .send e bl (p ++ rest) x).2 = (pass .send e bl rest (e (xorBytes p x))).2 := by
  rw [pass, blocksOf_cons rest hbl hp]
  rfl

theorem pass_send_block (x : List Byte) {p : List Byte} (hbl : 0 < bl) (hp : p.length = bl) :
    (pass .send e bl p x).2 = e (xorBytes p x) := by
  rw [← List.append_nil p, pass_send_block_append x [] hbl hp, pass_nil, List.append_nil]

/-- The last step of the chain is the pass over the one block that the last data pads to. -/
theorem pass_send_padded_lastStep (x : List Byte) (hbl : 0 < bl) (h1 : sk1.length = bl) (h2 : sk2.length = bl)
    (h : d.length ≤ bl) :
    (pass .send e bl (padded bl d sk1 sk2) x).2 = macChain.lastStep e bl sk1 sk2 x d := by
  unfold macChain.lastStep
  obtain hfull | hpart := h.eq_or_lt
  · rw [if_pos hfull, padded_of_complete (by omega) (by rw [hfull, Nat.mod_self]), xorLast_block hfull,
      pass_send_block x hbl (by rw [xorBytes_length, hfull, h1, Nat.min_self])]
  · have hfill : (d ++ [0x80] ++ zeroBytes (bl - d.length - 1)).length = bl := by
      simp only [List.length_append, List.length_singleton, zeroBytes_length]
      omega
    rw [if_neg hpart.ne, padded_of_lt hpart, pass_send_block x hbl (by rw [xorBytes_length, hfill, h2, Nat.min_self])]

/-- R264 against R266: by induction on the blocks before the last. -/
theorem pass_send_padded (hbl : 0 < bl) (h1 : sk1.length = bl) (h2 : sk2.length = bl) (fuel : Nat) (x d : List Byte)
    (h : d.length ≤ (fuel + 1) * bl) :
    (pass .send e bl (padded bl d sk1 sk2) x).2 = macChain e bl sk1 sk2 fuel x d := by
  induction fuel generalizing x d with
  | zero => exact pass_send_padded_lastStep x hbl h1 h2 (by omega)
  | succ fuel ih =>
    rw [macChain]
    split
    · next hlast => exact pass_send_padded_lastStep x hbl h1 h2 hlast
    · next hmore =>
      have hp : (d.take bl).length = bl := List.length_take_of_le (by omega)
      have hrest : (d.drop bl).length = d.length - bl := List.length_drop
      rw [Nat.succ_mul] at h
      conv_lhs => rw [← List.take_append_drop bl d]
      rw [padded_block_append hbl hp (by omega), pass_send_block_append x _ hbl hp]
      exact ih _ _ (by omega)

end MacChain

end Sys2Proof.Machine
end

section
/-! PROOFS. The commands CMACSK and CMAC (spec/42_cmac.md R261 to R268): the registers that `withSubkeys_eq` and
`macTransform_eq` give, in the terms of the standard CMAC. -/

namespace Sys2Proof.Machine

/-! ## The subkeys (R261, R262) -/

theorem subkey1_eq (f : Fitted) (a : Alg) (key : List Byte) :
    subkey1 f a key = dbl (encBlock f a key (zeroBytes (blockLen a))) := by
  rw [subkey1, subkeyL_eq]

theorem subkey2_eq (f : Fitted) (a : Alg) (key : List Byte) :
    subkey2 f a key = dbl (dbl (encBlock f a key (zeroBytes (blockLen a)))) := by
  rw [subkey2, subkey1_eq]

theorem subkey1_length (f : Fitted) (a : Alg) (reg : KeyBytes) :
    (subkey1 f a (keyOf a reg)).length = blockLen a := by
  rw [subkey1_eq, dbl_length, encBlock_length f a _ _ (keyOf_length a reg) (zeroBytes_length _)]

theorem subkey2_length (f : Fitted) (a : Alg) (reg : KeyBytes) :
    (subkey2 f a (keyOf a reg)).length = blockLen a := by
  rw [subkey2, dbl_length, subkey1_length]

theorem subkeyReg_toList {sk : List Byte} {bl : Nat} (hsk : sk.length = bl) (hbl : bl ≤ 16) :
    (subkeyReg sk).toList = sk ++ zeroBytes (16 - bl) := by
  rw [subkeyReg, setPrefix_toList _ _ (hsk.trans_le hbl), hsk]
  exact congrArg (sk ++ ·) List.drop_replicate

theorem subkeyReg_subkey1_toList (f : Fitted) (a : Alg) (reg : KeyBytes) :
    (subkeyReg (subkey1 f a (keyOf a reg))).toList =
      dbl (encBlock f a (keyOf a reg) (zeroBytes (blockLen a))) ++ zeroBytes (16 - blockLen a) := by
  rw [subkeyReg_toList (subkey1_length f a reg) (blockLen_le a), subkey1_eq]

theorem subkeyReg_subkey2_toList (f : Fitted) (a : Alg) (reg : KeyBytes) :
    (subkeyReg (subkey2 f a (keyOf a reg))).toList =
      dbl (dbl (encBlock f a (keyOf a reg) (zeroBytes (blockLen a)))) ++ zeroBytes (16 - blockLen a) := by
  rw [subkeyReg_toList (subkey2_length f a reg) (blockLen_le a), subkey2_eq]

/-- Settles O42: the registers by `withSubkeys_eq`, the frame by `exec_agree`. -/
theorem cmacskResult : Obligations.CmacskResult := by
  intro s k a reg hk ha
  have hexec := exec_cmacsk_ready hk ha
  refine ⟨_, hexec, rfl, ?_, ?_, ?_, fun f hf => exec_agree hexec ?_⟩
  · rw [withSubkeys_eq]
    exact subkeyReg_subkey1_toList s.fitted a reg
  · rw [withSubkeys_eq]
    exact subkeyReg_subkey2_toList s.fitted a reg
  · rw [withSubkeys_eq]
    exact State.d40Reset_iv s
  · cases f <;> simp [MayWrite, needsAligned] at hf ⊢

/-! ## The MAC (R264 to R268) -/

theorem resolveMode_true (c : Chan) : resolveMode true c = if c = .d40 then .decode else .encode := by
  cases c <;> rfl

/-- The chain of the data from the starting IV (R264, R265). `macTransform_pass` ties it to the pass that CMAC makes,
`macTransform_iv_take` to the IV that CMAC leaves. -/
def macValue (a : Alg) (key : List Byte) (s : State) : List Byte :=
  macChain (prim s.fitted a key (if s.chan = .d40 then .decode else .encode)) (blockLen a)
    (dbl (encBlock s.fitted a key (zeroBytes (blockLen a))))
    (dbl (dbl (encBlock s.fitted a key (zeroBytes (blockLen a)))))
    s.lenNat (startingIv s .context (blockLen a)) s.data

section MacTransform

variable (a : Alg) (reg : KeyBytes) (s : State)

/-- The final running IV of the pass that `macTransform` makes (`macTransform_eq`). -/
theorem macTransform_pass :
    (pass .send (prim s.fitted a (keyOf a reg) (resolveMode true s.chan)) (blockLen a)
      (padded (blockLen a) s.data (subkey1 s.fitted a (keyOf a reg)) (subkey2 s.fitted a (keyOf a reg)))
      (startingIv s .context (blockLen a))).2 = macValue a (keyOf a reg) s := by
  have hfuel : s.data.length ≤ (s.lenNat + 1) * blockLen a := by
    rw [data_length]
    exact le_trans (Nat.le_succ _) (Nat.le_mul_of_pos_right _ (blockLen_pos a))
  rw [pass_send_padded (blockLen_pos a) (subkey1_length _ a reg) (subkey2_length _ a reg) s.lenNat _ _ hfuel,
    resolveMode_true, subkey1_eq, subkey2_eq, macValue]

theorem macValue_length : (macValue a (keyOf a reg) s).length = blockLen a := by
  rw [← macTransform_pass]
  exact (pass_lengths (fun b hb => prim_length _ a _ _ b (keyOf_length a reg) hb) (startingIv_length s .context a)
    (padded_length_mod (blockLen_pos a) (subkey1_length _ a reg) (subkey2_length _ a reg))).2

/-- IV's first block is the MAC; its others are as the D40 reset left them (R225, R268). -/
theorem macTransform_iv_toList :
    (macTransform a (keyOf a reg) s).iv.toList =
      macValue a (keyOf a reg) s ++ s.d40Reset.iv.toList.drop (blockLen a) := by
  have hlen := macValue_length a reg s
  rw [macTransform_eq, macTransform_pass, setPrefix_toList _ _ (hlen ▸ blockLen_le a), hlen]

theorem macTransform_iv_take :
    (macTransform a (keyOf a reg) s).iv.toList.take (blockLen a) = macValue a (keyOf a reg) s := by
  rw [macTransform_iv_toList, List.take_left' (macValue_length a reg s)]

theorem macTransform_iv_drop :
    (macTransform a (keyOf a reg) s).iv.toList.drop (blockLen a) =
      if s.chan = .d40 then zeroBytes (16 - blockLen a) else s.iv.toList.drop (blockLen a) := by
  rw [macTransform_iv_toList, List.drop_left' (macValue_length a reg s), State.d40Reset_iv]
  split
  · exact List.drop_replicate
  · rfl

end MacTransform

/-- Settles O43: the registers by `macTransform_eq` and the lemmas on its IV, the frame by `exec_agree`. -/
theorem cmacResult : Obligations.CmacResult := by
  intro s k a reg h
  have hexec := exec_cmac_ready h
  refine ⟨_, hexec, rfl, macTransform_iv_take a reg s, macTransform_iv_drop a reg s, ?_, ?_,
    fun f hf => exec_agree hexec ?_⟩
  · rw [macTransform_eq]
    exact subkeyReg_subkey1_toList s.fitted a reg
  · rw [macTransform_eq]
    exact subkeyReg_subkey2_toList s.fitted a reg
  · cases f <;> simp [MayWrite, needsAligned] at hf ⊢

/-- Settles O44: outside D40 the mode is Enc, and the zero IV is where the standard chain starts. -/
theorem cmacIsStandardCmac : Obligations.CmacIsStandardCmac := by
  intro s k a reg h hchan hiv
  have hstart : startingIv s .context (blockLen a) = zeroBytes (blockLen a) := (if_neg hchan).trans hiv
  refine ⟨_, exec_cmac_ready h, (macTransform_iv_take a reg s).trans ?_⟩
  rw [macValue, hstart, if_neg hchan, standardCmac, dbufRead_length]
  rfl

/-- Settles O45: both MACs are the standard CMAC (O44), under one key and of the same data. -/
theorem cmacDependsOnlyOnKeyAndData : Obligations.CmacDependsOnlyOnKeyAndData := by
  intro s s' k k' a reg reg' h h' hchan hchan' hfitted hkey hiv hiv' hlen hdata
  obtain ⟨t, hexec, hmac⟩ := cmacIsStandardCmac s k a reg h hchan hiv
  obtain ⟨t', hexec', hmac'⟩ := cmacIsStandardCmac s' k' a reg' h' hchan' hiv'
  have hread : dbufRead s' 0 s'.len.toNat = dbufRead s 0 s.len.toNat := by
    rw [hlen]
    exact dbufRead_congr s' s 0 0 _ fun j hj => by rw [Nat.zero_add]; exact hdata j hj
  exact ⟨t, t', hexec, hexec', by rw [hmac', hmac, hfitted, hkey, hread]⟩

end Sys2Proof.Machine
end

section
/-! PROOFS. NOP and the context-clearing commands (spec/43_context.md R300 to R303). The frames are `exec_agree` with
what `MayWrite` lists; of CTRL, the fields whose bits a command clears are read apart from those that it keeps. -/

namespace Sys2Proof.Machine

/-! ## The fields of a CTRL with bits cleared (R42) -/

/-- A mask without the bits of CHAN leaves the channel None. -/
theorem chan_eq_none_of_masked {s : State} {c mask : Word} (h : s.ctrl = c &&& mask)
    (hmask : mask.extractLsb' 4 2 = 0#2) : s.chan = .none := by
  rw [State.chan, h, BitVec.extractLsb'_and, hmask, BitVec.and_zero]
  rfl

/-- A mask without the bits of ALG leaves the algorithm DES. -/
theorem alg_eq_des_of_masked {s : State} {c mask : Word} (h : s.ctrl = c &&& mask)
    (hmask : mask.extractLsb' 0 3 = 0#3) : s.alg = some .des := by
  rw [State.alg, h, BitVec.extractLsb'_and, hmask, BitVec.and_zero]
  rfl

/-- Clearing the bits of CHAN, then those of ALG, clears all the stored bits of CTRL. -/
theorem and_not_chanMask_and_not_algMask (c : Word) : c &&& ~~~chanMask &&& ~~~algMask = c &&& ~~~ctrlMask :=
  BitVec.and_assoc c (~~~chanMask) (~~~algMask)

/-! ## What CLRSESS makes of CTRL (R302) -/

theorem clearSession_ctrl (s : State) : s.clearSession.ctrl = s.ctrl &&& ~~~chanMask := rfl

theorem clearSession_chan (s : State) : s.clearSession.chan = .none :=
  chan_eq_none_of_masked (clearSession_ctrl s) (by decide)

theorem clearSession_alg (s : State) : s.clearSession.alg = s.alg := by
  have hkept : s.ctrl &&& ~~~chanMask &&& ~~~chanMask = s.ctrl &&& ~~~chanMask := by
    rw [BitVec.and_assoc, BitVec.and_self]
  exact setCtrl_alg_of_masked_eq hkept

/-! ## The commands -/

/-- A command's frame is any list that holds every field it may write. -/
theorem exec_frame {i : Instr} {s t : State} {changed : List Field} (h : exec i s = .next t)
    (hwrites : ∀ f, MayWrite i f → f ∈ changed) : frame s t changed :=
  fun f hf => exec_agree h fun hw => hf (hwrites f hw)

/-- Settles O46: the frames by `exec_frame`. -/
theorem nopAndClrivResult : Obligations.NopAndClrivResult := by
  refine fun s => ⟨⟨_, rfl, rfl, exec_frame (i := .nop) rfl fun f => ?_⟩,
    ⟨_, rfl, rfl, rfl, exec_frame (i := .clriv) rfl fun f => ?_⟩⟩
  · cases f <;> simp [MayWrite, usesCipher, needsAligned]
  · cases f <;> simp [MayWrite, needsAligned]

/-- Settles O47: CHAN and ALG by `clearSession_chan` and `clearSession_alg`, the frame by `exec_frame`. -/
theorem clrsessResult : Obligations.ClrsessResult := by
  refine fun s => ⟨_, rfl, clearSession_ctrl s, clearSession_chan s, clearSession_alg s,
    rfl, rfl, rfl, rfl, rfl, rfl, rfl, exec_frame (i := .clrsess) rfl fun f => ?_⟩
  cases f <;> simp [MayWrite, needsAligned]

/-- Settles O48: CTRL keeps its reserved bits alone, which the invariant has at 0; the frame by `exec_frame`. -/
theorem clrctxResult : Obligations.ClrctxResult := by
  intro s
  have hctrl : s.clearSession.ctrl &&& ~~~algMask = s.ctrl &&& ~~~ctrlMask := and_not_chanMask_and_not_algMask s.ctrl
  have hreserved : s.Inv → s.clearSession.ctrl &&& ~~~algMask = 0 := fun ⟨hzero, _⟩ => hctrl.trans hzero
  refine ⟨_, rfl, hctrl, hreserved, chan_eq_none_of_masked hctrl (by decide), alg_eq_des_of_masked hctrl (by decide),
    rfl, rfl, rfl, rfl, rfl, rfl, rfl, rfl, exec_frame (i := .clrctx) rfl fun f => ?_⟩
  cases f <;> simp [MayWrite, needsAligned]

end Sys2Proof.Machine
end

section
/-! PROOFS. The check order of spec/60_exceptions.md R331 decides what a command answers. Each of the machine's checks is
held against the condition that `firstError` has for it; a command is then the chain of its checks. -/

namespace Sys2Proof.Machine

/-! ## An answer that heeds a verdict -/

/-- The STATUS of a command that no check rejects (R334). -/
def completionStatus (i : Instr) (s : State) : Word :=
  if (i = .crc32v ∧ dbufRead s s.len.toNat 4 = bytes32 (crc32Of s.fitted (dbufRead s 0 s.len.toNat))) ∨
      (i = .crc16v ∧ dbufRead s s.len.toNat 2 = bytes16 (crc16aOf s.fitted (dbufRead s 0 s.len.toNat)))
    then 0x2 else 0x0

theorem completionStatus_of_not_verify {i : Instr} (s : State) (h32 : i ≠ .crc32v) (h16 : i ≠ .crc16v) :
    completionStatus i s = 0 := by
  simp [completionStatus, h32, h16]

theorem completionStatus_crc32v (s : State) :
    completionStatus .crc32v s = if s.crcMatches (bytes32 s.dataCrc32) then 0x2 else 0x0 := by
  have hmatch : s.crcMatches (bytes32 s.dataCrc32) = true ↔
      dbufRead s s.len.toNat 4 = bytes32 (crc32Of s.fitted (dbufRead s 0 s.len.toNat)) :=
    crcMatches_iff s _
  simp [completionStatus, hmatch]

theorem completionStatus_crc16v (s : State) :
    completionStatus .crc16v s = if s.crcMatches (bytes16 s.dataCrc16a) then 0x2 else 0x0 := by
  have hmatch : s.crcMatches (bytes16 s.dataCrc16a) = true ↔
      dbufRead s s.len.toNat 2 = bytes16 (crc16aOf s.fitted (dbufRead s 0 s.len.toNat)) :=
    crcMatches_iff s _
  simp [completionStatus, hmatch]

/-- What the verdict of the checks makes of a command begun in `s`: the failing check's rejection, or a completion
with `v` in STATUS. Tied to the machine by `exec_heeds`. -/
def Heeds (s : State) (v : Word) (verdict : Option EngineError) (r : Result) : Prop :=
  match verdict with
  | some e => r = rejected e s
  | none => ∃ u : State, r = .next (u.setStatus v)

/-- The commands without a key have no check but that of LEN_RANGE. -/
theorem firstError_of_no_cipher {i : Instr} (s : State) (hwf : i.wf = true) (hcipher : usesCipher i = false)
    (haligned : needsAligned i = false) :
    firstError i s = if overruns i s = true then some .lenRange else none := by
  simp [firstError, hwf, hcipher, haligned]

section Checks

variable {s : State} {v : Word} {i : Instr} {verdict : Option EngineError} {r : Result}

theorem heeds_accepted {u : State} (hv : v = 0) : Heeds s v none (accepted u) := ⟨u, hv ▸ rfl⟩

theorem heeds_verified {u : State} {ok : Bool} (hv : v = if ok then 0x2 else 0x0) : Heeds s v none (verified ok u) :=
  ⟨u, hv ▸ rfl⟩

theorem heeds_check {failed : Prop} [Decidable failed] {e : EngineError} (hfail : failed → r = rejected e s)
    (hpass : ¬ failed → Heeds s v verdict r) : Heeds s v (if failed then some e else verdict) r := by
  split
  case isTrue h => exact hfail h
  case isFalse h => exact hpass h

/-- A check that the command does not have. -/
theorem heeds_skip {failed : Prop} [Decidable failed] {e : EngineError} (hnot : ¬ failed)
    (h : Heeds s v verdict r) : Heeds s v (if failed then some e else verdict) r :=
  heeds_check (fun hf => absurd hf hnot) fun _ => h

theorem keyReg_eq_none_of_not_wf {k : KeySel} (h : k.wf = false) : s.keyReg k = none := by
  cases k with
  | reserved => rfl
  | _ => cases h

theorem alg_eq_none_of_algValue (h : algValue s > 3) : s.alg = none := by
  unfold algValue at h
  unfold State.alg
  split
  case h_5 => rfl
  all_goals omega

theorem heeds_requireKey {k : KeySel} {go : KeyBytes → Result} (hwf : i.wf = k.wf)
    (hgo : ∀ reg, Heeds s v verdict (go reg)) :
    Heeds s v (if i.wf = false then some .illegalCmd else verdict) (requireKey k s go) := by
  refine heeds_check (fun h => requireKey_none go (keyReg_eq_none_of_not_wf (hwf ▸ h))) fun h => ?_
  obtain ⟨reg, hreg⟩ := exists_keyReg_of_wf (s := s) (k := k) (hwf ▸ Bool.of_not_eq_false h)
  rw [requireKey_some go hreg]
  exact hgo reg

theorem heeds_requireAlg {go : Alg → Result} (hcipher : usesCipher i = true)
    (hgo : ∀ a, blockLen a = blOfValue (algValue s) → Heeds s v verdict (go a)) :
    Heeds s v (if usesCipher i = true ∧ algValue s > 3 then some .badAlg else verdict) (requireAlg s go) := by
  refine heeds_check (fun h => requireAlg_none go (alg_eq_none_of_algValue h.2)) fun h => ?_
  obtain ⟨a, ha, hbl⟩ := exists_alg_of_algValue fun hv => h ⟨hcipher, hv⟩
  rw [requireAlg_some go ha]
  exact hgo a hbl

theorem heeds_requireRoom {n : Nat} {go : Result} (hn : roomNeeded i = some n) (hgo : Heeds s v verdict go) :
    Heeds s v (if overruns i s = true then some .lenRange else verdict) (requireRoom n s go) := by
  have hroom : overruns i s = true ↔ ¬ s.lenNat + n ≤ Config.bufBytes := by simp [overruns, hn, State.lenNat]
  refine heeds_check (fun h => requireRoom_gt go (hroom.1 h)) fun h => ?_
  rw [requireRoom_le go (not_not.1 fun hgt => h (hroom.2 hgt))]
  exact hgo

theorem heeds_requireAligned {a : Alg} {go : Result} (haligned : needsAligned i = true)
    (hbl : blockLen a = blOfValue (algValue s)) (hgo : Heeds s v verdict go) :
    Heeds s v (if needsAligned i = true ∧ s.len.toNat % blOfValue (algValue s) ≠ 0 then some .lenAlign else verdict)
      (requireAligned (blockLen a) s go) := by
  rw [← hbl]
  refine heeds_check (fun h => requireAligned_ne go h.2) fun h => ?_
  rw [requireAligned_zero go (not_not.1 fun hne => h ⟨haligned, hne⟩)]
  exact hgo

end Checks

/-! ## The commands -/

/-- R331: the checks of every command are those of `firstError`, in its order. -/
theorem exec_heeds (i : Instr) (s : State) : Heeds s (completionStatus i s) (firstError i s) (exec i s) := by
  have hcompleted {j : Instr} := completionStatus_of_not_verify (i := j) s
  cases i with
  | chainx k d m x | chain k enc =>
    exact heeds_requireKey rfl fun _ => heeds_requireAlg rfl fun _ hbl => heeds_requireRoom rfl <|
      heeds_requireAligned rfl hbl <| heeds_accepted (hcompleted nofun nofun)
  | cmacsk k =>
    exact heeds_requireKey rfl fun _ => heeds_requireAlg rfl fun _ _ => heeds_skip nofun <|
      heeds_skip (by simp [needsAligned]) <| heeds_accepted (hcompleted nofun nofun)
  | cmac k =>
    exact heeds_requireKey rfl fun _ => heeds_requireAlg rfl fun _ _ => heeds_requireRoom rfl <|
      heeds_skip (by simp [needsAligned]) <| heeds_accepted (hcompleted nofun nofun)
  | crc32 | crc32a | crc16 | crc16a =>
    rw [firstError_of_no_cipher s rfl rfl rfl]
    exact heeds_requireRoom rfl (heeds_accepted (hcompleted nofun nofun))
  | crc32v =>
    rw [firstError_of_no_cipher s rfl rfl rfl]
    exact heeds_requireRoom rfl (heeds_verified (completionStatus_crc32v s))
  | crc16v =>
    rw [firstError_of_no_cipher s rfl rfl rfl]
    exact heeds_requireRoom rfl (heeds_verified (completionStatus_crc16v s))
  | nop | clriv | clrsess | clrctx =>
    rw [firstError_of_no_cipher s rfl rfl rfl]
    exact heeds_skip nofun (heeds_accepted (hcompleted nofun nofun))

theorem exec_of_firstError_some {i : Instr} {s : State} {e : EngineError} (h : firstError i s = some e) :
    exec i s = rejected e s := by
  simpa [h, Heeds] using exec_heeds i s

theorem exec_of_firstError_none {i : Instr} {s : State} (h : firstError i s = none) :
    ∃ u : State, exec i s = .next (u.setStatus (completionStatus i s)) := by
  simpa [h, Heeds] using exec_heeds i s

/-- A rejection writes STATUS and nothing else (R333). -/
theorem reject_frame (s : State) (e : EngineError) : frame s (s.reject e) [.status] :=
  fun f hf => agree_setStatus _ (fun h => hf (List.mem_singleton.2 h)) (agree_refl s f)

/-- Settles O20: `exec_heeds` with either verdict. -/
theorem checkOrderDecidesStatus : Obligations.CheckOrderDecidesStatus := by
  refine fun i s => ⟨fun e h => ⟨s.reject e, exec_of_firstError_some h, rfl, reject_frame s e⟩, fun h => ?_⟩
  obtain ⟨u, hu⟩ := exec_of_firstError_none h
  exact ⟨_, hu, rfl⟩

/-! ## The checks on the bare word -/

section Word

variable (i : Instr) (s : State)

theorem opField_encode_mem_cipher : (opField (encode i)).toNat ∈ [1, 2, 3, 4] ↔ usesCipher i = true := by
  cases i <;> simp [encode, usesCipher]

theorem opField_encode_mem_aligned : (opField (encode i)).toNat ∈ [1, 2] ↔ needsAligned i = true := by
  cases i <;> simp [encode, needsAligned]

theorem overruns_iff_opField_encode :
    overruns i s = true ↔
      ((opField (encode i)).toNat ∈ [1, 2, 4, 5, 8] ∧ s.len.toNat > Config.bufBytes ∨
        (opField (encode i)).toNat ∈ [6, 7] ∧ s.len.toNat + 4 > Config.bufBytes) ∨
      (opField (encode i)).toNat ∈ [9, 10] ∧ s.len.toNat + 2 > Config.bufBytes := by
  cases i <;> simp [encode, overruns, roomNeeded]

theorem opField_encode_eq_seven : opField (encode i) = 7 ↔ i = .crc32v := by
  cases i <;> simp [encode]

theorem opField_encode_eq_ten : opField (encode i) = 10 ↔ i = .crc16v := by
  cases i <;> simp [encode]

/-- `Check(w)` on the word of a command is the check order of the command: its three LEN_RANGE checks are one. -/
theorem checkWord_encode (hwf : i.wf = true) : checkWord (encode i) s = firstError i s := by
  have hlegal : legal (encode i) = true := (legal_iff_encode _).2 ⟨i, rfl, hwf⟩
  simp only [checkWord, firstError, hlegal, hwf, opField_encode_mem_cipher, opField_encode_mem_aligned,
    overruns_iff_opField_encode, ite_or]

theorem checkWord_of_not_legal {w : Word} (h : legal w = false) : checkWord w s = some .illegalCmd := by
  simp [checkWord, h]

end Word

/-- Settles O21: an illegal word is rejected for itself (O4); a legal one is the word of a command, which O20
speaks of. -/
theorem commandWordChecksInOrder : Obligations.CommandWordChecksInOrder := by
  intro s w rest hp
  obtain ⟨hillegal, hcommand⟩ := illegalWordSetsOnlyStatus s w rest hp
  cases hlegal : legal w with
  | false =>
    rw [checkWord_of_not_legal s hlegal]
    refine ⟨?_, nofun⟩
    rintro e ⟨⟩
    exact hillegal hlegal
  | true =>
    obtain ⟨i, hi, hstep⟩ := hcommand hlegal
    obtain ⟨rfl, hwf⟩ := decode_ok_iff_encode.1 hi
    simp only [checkWord_encode i s hwf, hstep, opField_encode_eq_seven, opField_encode_eq_ten]
    exact checkOrderDecidesStatus i (s.setPending rest)

end Sys2Proof.Machine
end

section
/-! PROOFS. Reset (spec/70_reset_and_hazards.md R370, R371, R380): the registers hold zeros, so every word of the window
below DBUF reads 0, and DBUF has no specified byte. -/

namespace Sys2Proof.Machine

/-! ## Registers of zeros -/

theorem byteAt_replicate_zero (n i : Nat) : byteAt (Vector.replicate n (0 : Byte)) i = 0 := by
  simp only [byteAt, Vector.toList_replicate, List.getD_eq_getElem?_getD, List.getElem?_getD_replicate_default_eq]

/-- The word 0 is four bytes 0 (R103). -/
theorem arrayWord_replicate_zero (n o : Nat) : arrayWord (Vector.replicate n (0 : Byte)) o = 0 := by
  simp only [arrayWord, byteAt_replicate_zero]
  rfl

/-! ## The words below DBUF -/

theorem locate_ne_dbuf {a o : Nat} {r : RegName} (ha : a < 0x400) (h : locate a = some (r, o)) : r ≠ .dbuf := by
  rintro rfl
  obtain ⟨rfl, -⟩ := locate_some h
  exact absurd ha (Nat.not_lt.2 (Nat.le_add_right 0x400 o))

/-- The window below DBUF shows the other registers and, at reserved offsets, 0 (R101, R102). -/
theorem readWord_eq_zero_of_lt {s : State} (hs : ∀ r o, r ≠ .dbuf → s.readReg r o = 0) {a : Nat} (ha : a < 0x400) :
    s.readWord a = 0 := by
  rcases hl : locate a with _ | ⟨r, o⟩
  · exact readWord_of_locate_none s hl
  · rw [readWord_of_locate s hl, hs r o (locate_ne_dbuf ha hl)]

/-! ## The reset state and the reset event -/

theorem readReg_reset (r : RegName) (o : Nat) (hr : r ≠ .dbuf) : State.reset.readReg r o = 0 := by
  cases r with
  | ctrl | cmd | status | len | crcr => rfl
  | iv | xiv | lastIv | sk1 | sk2 => exact arrayWord_replicate_zero 16 o
  | key | skenc | skmac => exact arrayWord_replicate_zero 24 o
  | dbuf => exact absurd rfl hr

/-- After a reset event the model's own fields may differ from the reset state; of the registers DBUF alone depends
on them (log entries 1, 2 and 10). -/
theorem readReg_afterReset (s : State) (r : RegName) (o : Nat) (hr : r ≠ .dbuf) : s.afterReset.readReg r o = 0 := by
  have hsame : s.afterReset.readReg r o = State.reset.readReg r o := by
    cases r with
    | dbuf => exact absurd rfl hr
    | _ => rfl
  rw [hsame, readReg_reset r o hr]

theorem memLookup_reset (i : Nat) : memLookup State.reset.dbuf i = none := rfl

theorem step_reset {s : State} {rest : List HostEvent} (hp : s.pending = .reset :: rest) :
    step s = .next (s.setPending rest).afterReset :=
  step_cons hp

/-- Settles O15: below DBUF by `readReg_reset`, and DBUF has no cell. -/
theorem resetRegistersReadZero : Obligations.ResetRegistersReadZero :=
  ⟨fun _ _ ha => readWord_eq_zero_of_lt readReg_reset ha, memLookup_reset⟩

/-- Settles O16: the step leads to `afterReset`, whose registers are those of the reset state. -/
theorem resetEventClearsRegisters : Obligations.ResetEventClearsRegisters := by
  intro s rest hp
  have hzero : ∀ a, wordOffset a → a < 0x400 → (s.setPending rest).afterReset.readWord a = 0 :=
    fun _ _ ha => readWord_eq_zero_of_lt (readReg_afterReset _) ha
  exact ⟨_, step_reset hp, hzero, memLookup_reset, rfl, rfl, rfl⟩

end Sys2Proof.Machine
end
